-- ==== Sys2Proof/Word.lean ====
section
/-! DEFINITION. The two word types of the block (R9): the data width is 8 bits and the address width 16 bits.
Everything computed from words stands in Sys2Proof/Machine/Bits.lean. -/

namespace Sys2Proof

/-- R11: "A byte is 8 bits"; `+8` and `-8` of the spec are `+` and `-` at this type. -/
abbrev Byte := BitVec 8

/-- R11: "an address is 16 bits"; `+16` and `-16` of the spec are `+` and `-` at this type. -/
abbrev Address := BitVec 16

end Sys2Proof
end

