-- ==== Sys2Proof/Machine/Bits.lean ====
section
/-! DEFINITION. The bit-field, extension and byte-order helpers of R11: `lo`, `hi`, `page`, the pair of two bytes,
and the two widenings of a byte. -/

namespace Sys2Proof

/-- R11: `lo(a) = a[7:0]`. -/
def lo (w : Address) : Byte := w.setWidth 8

/-- R11: `hi(a) = a[15:8]`. -/
def hi (w : Address) : Byte := (w >>> 8).setWidth 8

/-- R11: `page(a) = a[15:8]`. -/
def page (w : Address) : Byte := hi w

/-- R11: the 16-bit value whose high byte is `h` and whose low byte is `l`. -/
def pair (h l : Byte) : Address := h ++ l

/-- R11: `zext_16(b)` widens a byte with zeros. -/
def zext16 (b : Byte) : Address := b.setWidth 16

/-- R11: `sext_16(b)` widens a byte with its bit 7. -/
def sext16 (b : Byte) : Address := b.signExtend 16

end Sys2Proof
end

