-- ==== Sys2Proof/Machine/Memory.lean ====
section
/-! DEFINITION. The memory behind the bus (R81, R98): one byte at each of the 65536 addresses, held as a list of
address and byte in one canonical form. -/

namespace Sys2Proof.Machine

/-- What an address that is not listed reads as (95_test_vectors.md: "Memory not listed is 0"; log 1). Every image of
R97, whatever its bytes, is a list of this form, and `State.launch` takes any. -/
def unlistedByte : Byte := 0

/-- The byte at an address. -/
def readByte : List Host.Cell → Nat → Byte
  | [], _ => unlistedByte
  | (b, v) :: rest, a => if a = b then v else readByte rest a

/-- The list with the byte at an address replaced; the entry goes when the byte is what an unlisted address reads as. -/
def writeByte : List Host.Cell → Nat → Byte → List Host.Cell
  | [], a, v => if v = unlistedByte then [] else [(a, v)]
  | (b, u) :: rest, a, v =>
    if a < b then (if v = unlistedByte then (b, u) :: rest else (a, v) :: (b, u) :: rest)
    else if a = b then (if v = unlistedByte then rest else (a, v) :: rest)
    else (b, u) :: writeByte rest a v

/-- Whether the addresses of a list rise strictly from `lo` up, stay below 65536, and list no byte that an unlisted
address reads as. -/
def Memory.wfFrom : Nat → List Host.Cell → Bool
  | _, [] => true
  | lo, (a, v) :: rest =>
    decide (lo ≤ a) && decide (a < 65536) && decide (v ≠ unlistedByte) && Memory.wfFrom (a + 1) rest

/-- The canonical form of a memory. -/
def Memory.wf (m : List Host.Cell) : Bool := Memory.wfFrom 0 m

end Sys2Proof.Machine
end

