-- ==== Sys2Proof/Config.lean ====
section
/-! DEFINITION. The configuration: the OPEN parameters of R10, gathered in one plain record `Platform` that the state
carries unchanged (the spec makes them arguments of the step, and a step takes nothing but a state), what the
environment is told, and the free value it answers with. The parameters that R10 calls decided stand in
Sys2Proof/Machine/Params.lean. -/

namespace Sys2Proof

/-- The two timer peripherals (R3, R450). -/
inductive TimerId where
  | t0 | t1
deriving DecidableEq, Repr

/-- R86: the kind of a bus access. DEDUCED (log 7): pointer, stack-pull and vector accesses are reads, a push is a
write. -/
inductive AccessKind where
  | fetch | read | write
deriving DecidableEq, Repr

/-- A range of bus addresses: `base` and the `size - 1` addresses after it. -/
structure Region where
  base : Nat
  size : Nat
deriving DecidableEq, Repr

/-- One entry of the platform function `IO_WAIT` (R86): an access of this kind to this address waits this long. -/
structure WaitRule where
  addr   : Address
  kind   : AccessKind
  cycles : Nat
deriving DecidableEq, Repr

/-- The OPEN parameters of R10, fixed for a run (R515). -/
structure Platform where
  /-- `CYCLE_WRAP`, the wrap threshold of `TotalCycles` (R200). -/
  cycleWrap  : Nat
  /-- `TIMER_BASE[0]` (R82); none where the platform has no such window. -/
  timerBase0 : Option Address
  /-- `TIMER_BASE[1]` (R82). -/
  timerBase1 : Option Address
  /-- `IO_WAIT` (R86): the accesses that wait; every other access waits 0 cycles. -/
  ioWait     : List WaitRule
  /-- The addresses outside the timer windows that are not plain memory but reach a device of `EXT` (R80). -/
  devices    : List Region
deriving DecidableEq, Repr

/-- R80, R197, R201: one thing that the block tells the environment `EXT`: an access that R82 routes to it, an advance
handed to it, or a wrap of `TotalCycles`. -/
inductive ExtRecord where
  /-- A read at `a`. -/
  | read (a : Address)
  /-- A write of `v` at `a`. -/
  | write (a : Address) (v : Byte)
  /-- `EXT.advance(n)`. -/
  | advanced (n : Nat)
  /-- The wrap callbacks, with the amount `w` that was subtracted. -/
  | wrapped (w : Nat)
deriving DecidableEq, Repr

/-- FREE VALUE (R80): the byte that `EXT` answers to a read of one of its devices at address `a`, "Given the history of
accesses, the address and a free choice". The history, newest first, is everything `EXT` has been told; every read
makes it longer, so no two answers of a run are tied to each other. Nothing is known of the byte. -/
opaque Config.extByte (choice : Nat) (history : List ExtRecord) (a : Address) : Byte

end Sys2Proof
end

