-- ==== Sys2Proof/Machine/Params.lean ====
section
/-! DEFINITION. The parameters that R10 lists as decided, the fixed addresses of R90, and the reference platform P0
of R98. -/

namespace Sys2Proof.Machine

/-- R10, D24: the counter units one CPU cycle removes from a timer counter. -/
def timerUnitsPerCycle : Int := 1

/-- R10, R483, D27: `T2_WRAP_ADD`. -/
def t2WrapAdd : Int := 0x20000

/-- R10, R415, D21: `IRQ_ENTRY_CYCLES`. -/
def irqEntryCycles : Nat := 7

/-- R414: the countdown threshold, "to be preserved exactly". -/
def serviceThreshold : Int := -2

/-- R476: the lead time a timer adds to its counter when it claims the countdown. -/
def claimLead : Int := 3

/-- R10, D6: `RESET_A`. -/
def resetA : Byte := 0

/-- R10, D6: `RESET_X`. -/
def resetX : Byte := 0

/-- R10, D6: `RESET_Y`. -/
def resetY : Byte := 0

/-- R10, D6: `RESET_S`. -/
def resetS : Byte := 0xFF

/-- R90: the address of the reset vector's low byte; the high byte is at the next address. -/
def resetVector : Address := 0xFFFC

/-- R90: the address of the low byte of the vector shared by interrupt entry and BRK. -/
def irqVector : Address := 0xFFFE

/-- R34, R89: the first address of the stack page. -/
def stackPage : Address := 0x0100

/-- R98: the reference platform P0, with the default wrap threshold of R10. -/
def platformP0 : Platform where
  cycleWrap := 0x40000000
  timerBase0 := some 0xFE40
  timerBase1 := some 0xFE60
  ioWait := []
  devices := []

end Sys2Proof.Machine
end

