-- ==== Sys2Proof/Machine/State.lean ====
section
/-! DEFINITION. The state of the block: the register file, the cycle scheduler, the interrupt controller and the two
timer peripherals of 10_state.md, the memory behind the bus, and, as plain data, the environment `EXT` (R80) and the
platform parameters (R10), which the spec makes arguments of the step. Also the ways a step stops, and the state
after reset. -/

namespace Sys2Proof.Machine

/-- R400: the error values. A raise is the machine's own stop (R404): the block is then faulted until reset. Every one
is safe: the spec gives the stop, and the model says no more of the state left behind. -/
inductive Fault where
  /-- R401: raised by decode for an opcode with no instruction, with the address it was fetched from. Safe. -/
  | unimplementedOpcode (opcode : Byte) (addr : Address)
  /-- R402: `UnsupportedMode(Decimal)`, raised by ADC and SBC when D is set, with their opcode. Safe. -/
  | unsupportedDecimal (opcode : Byte)
  /-- R485: raised by an access of a timer's shift register in a shift mode. Safe. -/
  | unsupportedShiftRegister (i : TimerId) (off : Nat)
  /-- R487: raised by an access of a timer's port in a handshake or pulse output mode. Safe. -/
  | unsupportedHandshake (i : TimerId) (off : Nat)
  /-- R497: raised by a direct call of the register interface with no such register or timer. Safe. -/
  | contractTimerOffset (inst : Nat) (off : Nat)
  /-- R410: raised by the interrupt port for an id that is no external source. Safe. -/
  | contractSourceId (id : Nat)
  /-- R203: raised by `rescheduleTrigger` of `NEVER`. Safe. -/
  | contractRescheduleNever
deriving DecidableEq, Repr

/-- The reasons to answer nothing. Safe: a run that meets one simply has no next state. -/
inductive Refusal where
  /-- Raised by no arm: every instruction of the opcode table has its meaning. Safe. -/
  | notModelled (mnemonic : String)
deriving DecidableEq, Repr

/-- R35: the seven flags of the status register P. -/
structure Flags where
  c : Bool
  z : Bool
  i : Bool
  d : Bool
  b : Bool
  v : Bool
  n : Bool
deriving DecidableEq, Repr

/-- R30: the register file. `sp` is the register the spec calls S. -/
structure Regs where
  a  : Byte
  x  : Byte
  y  : Byte
  sp : Byte
  pc : Address
  p  : Flags
deriving DecidableEq, Repr

/-- The cycle scheduler (R45, R46, R183, R415). -/
structure Sched where
  /-- `TotalCycles` (R45). -/
  total   : Nat
  /-- `InstrCycles` (R46). -/
  instr   : Nat
  /-- `IOCycles` (R46). -/
  io      : Nat
  /-- `BranchExtra` (R183). -/
  branch  : Nat
  /-- `EntryCycles` (R415). -/
  entry   : Nat
  /-- Whether an interrupt entry is running, so that an advance is charged to `EntryCycles` (R196). -/
  inEntry : Bool
deriving DecidableEq, Repr

/-- The interrupt controller (R51 to R54). -/
structure Irq where
  /-- `IntStatus` (R51). -/
  status      : Byte
  /-- `Countdown` (R52); none is `IDLE`. -/
  countdown   : Option Int
  /-- `IntDue` (R53). -/
  due         : Bool
  /-- `IJustSet` (R54). -/
  justSet     : Bool
  /-- `IJustCleared` (R54). -/
  justCleared : Bool
deriving DecidableEq, Repr

/-- One timer peripheral (R56, R57). -/
structure Via where
  t1c     : Int
  t2c     : Int
  t1l     : BitVec 16
  t2l     : BitVec 16
  t1Fired : Bool
  t2Fired : Bool
  acr     : Byte
  pcr     : Byte
  ifr     : BitVec 7
  ier     : BitVec 7
  ora     : Byte
  orb     : Byte
  ddra    : Byte
  ddrb    : Byte
  sr      : Byte
  t1Out   : Bool
deriving DecidableEq, Repr

/-- The two ports of a timer peripheral (R452, R453). -/
inductive PortName where
  | a | b
deriving DecidableEq, Repr

/-- The control lines of a timer peripheral (R491). -/
inductive CtlLine where
  | ca1 | ca2 | cb1 | cb2
deriving DecidableEq, Repr

/-- R47: a trigger held by an external peripheral; none is `NEVER`. -/
abbrev Trigger := Option Int

/-- What the environment may do inside `EXT.advance` (R197, R206, R491): use the interrupt port, report an active
transition of a control line, change a port's pin levels, and call the trigger primitives for the `k`-th trigger it
holds. -/
inductive ExtEvent where
  | setSource (id : Nat)
  | clearSource (id : Nat)
  | signal (i : TimerId) (line : CtlLine)
  | setPins (i : TimerId) (port : PortName) (v : Byte)
  | schedule (k : Nat) (delay : Int)
  | reschedule (k : Nat) (delay : Int)
  | clear (k : Nat)
deriving DecidableEq, Repr

/-- The environment `EXT` (R80), as plain data: what it will do, what it drives, and what it has been told. -/
structure Ext where
  /-- What `EXT` does in its coming advances: one list of events for each; nothing after the last. -/
  script   : List (List ExtEvent)
  /-- `EXT.pins(0, A)` (R489). -/
  pins0A   : Byte
  /-- `EXT.pins(0, B)`. -/
  pins0B   : Byte
  /-- `EXT.pins(1, A)`. -/
  pins1A   : Byte
  /-- `EXT.pins(1, B)`. -/
  pins1B   : Byte
  /-- The triggers that external peripherals hold (R47), in the order their wrap callbacks were registered (R201). -/
  triggers : List Trigger
  /-- What `EXT` has been told, newest first (R80: "Each write is recorded in the history"): every access that R82 routes
  to it, every advance (R197) and every wrap (R201). -/
  history  : List ExtRecord
  /-- The free choice of R80: which of its possible answers `EXT` gives. Nothing writes it. -/
  choice   : Nat
deriving DecidableEq, Repr

/-- The whole block, with the memory behind its bus. `mem` lists, by strictly rising address, the bytes that differ
from what an unlisted address reads as (Sys2Proof/Machine/Memory.lean). -/
structure State where
  regs     : Regs
  sched    : Sched
  irq      : Irq
  via0     : Via
  via1     : Via
  mem      : List Host.Cell
  /-- `Fault` (R55). -/
  fault    : Option Fault
  platform : Platform
  ext      : Ext
deriving DecidableEq, Repr

/-- R58: a timer peripheral after reset. -/
def viaAfterReset : Via where
  t1c := 0x1FFFF
  t2c := 0x1FFFF
  t1l := 0xFFFF
  t2l := 0xFFFF
  t1Fired := false
  t2Fired := false
  acr := 0
  pcr := 0
  ifr := 0
  ier := 0
  ora := 0
  orb := 0
  ddra := 0
  ddrb := 0
  sr := 0
  t1Out := false

/-- R510: the status flags after reset. -/
def flagsAfterReset : Flags where
  c := false
  z := false
  i := true
  d := false
  b := false
  v := false
  n := false

/-- The environment of the reference platform (R98): it does nothing, and its pins read 0xFF. -/
def extP0 : Ext where
  script := []
  pins0A := 0xFF
  pins0B := 0xFF
  pins1A := 0xFF
  pins1B := 0xFF
  triggers := []
  history := []
  choice := 0

/-- Table 70-1, R97: the block right after `reset()` at power-up, on the reference platform with this launch image. The
environment has been told of the two reads of the reset vector (R511). -/
def State.launch (image : List Host.Cell) : State where
  regs :=
    { a := resetA, x := resetX, y := resetY, sp := resetS,
      pc := pair (readByte image 0xFFFD) (readByte image 0xFFFC), p := flagsAfterReset }
  sched := { total := 0, instr := 0, io := 0, branch := 0, entry := 0, inEntry := false }
  irq := { status := 0, countdown := none, due := false, justSet := false, justCleared := false }
  via0 := viaAfterReset
  via1 := viaAfterReset
  mem := image
  fault := none
  platform := platformP0
  ext := { extP0 with history := [.read 0xFFFD, .read 0xFFFC] }

/-- The launch with nothing listed (log 1): the image from which a program is loaded from outside (log 12). -/
def State.reset : State := State.launch []

end Sys2Proof.Machine
end

