-- ==== Sys2Proof/Machine/Outcome.lean ====
section
/-! DEFINITION. The outcomes of the operations: what an operation that makes a bus access answers, how two of them
follow one another, and a raise (R14, R404). -/

namespace Sys2Proof.Machine

/-- What an instruction answers. -/
abbrev Result := Host.Outcome State Fault Refusal

/-- What an operation that yields a value answers: the value, and the state after it. -/
abbrev Yield (α : Type) := Host.Outcome (α × State) Fault Refusal

/-- R14: "Pseudocode statements run in textual order"; nothing after a stop happens. -/
def andThen {σ τ : Type} (o : Host.Outcome σ Fault Refusal) (k : σ → Host.Outcome τ Fault Refusal) :
    Host.Outcome τ Fault Refusal :=
  match o with
  | .next x => k x
  | .fault e => .fault e
  | .refused r => .refused r

/-- R14, R404: `raise e`. A block that the environment has faulted earlier in the same call ends with that first error
(log 5). -/
def raise {τ : Type} (e : Fault) (s : State) : Host.Outcome τ Fault Refusal := .fault (s.fault.getD e)

end Sys2Proof.Machine
end

