-- ==== Sys2Proof/Machine/Timer.lean ====
section
/-! DEFINITION. The dual-timer peripheral of 61_timer_peripheral.md: the line into `IntStatus`, the register
interface at offsets 0 to 15, counting and expiry, the ports and the control lines. -/

namespace Sys2Proof.Machine

/-- The number the spec gives a timer peripheral. -/
def timerNumber : TimerId → Nat
  | .t0 => 0
  | .t1 => 1

/-- The fields of one peripheral. -/
def State.via (s : State) : TimerId → Via
  | .t0 => s.via0
  | .t1 => s.via1

/-- The state with the fields of one peripheral replaced. -/
def State.setVia (s : State) (i : TimerId) (v : Via) : State :=
  match i with
  | .t0 => { s with via0 := v }
  | .t1 => { s with via1 := v }

/-! ### Fields and bits -/

/-- R460: the IFR and IER bit of T1. -/
def t1Bit : BitVec 7 := 0x40

/-- R460: the IFR and IER bit of T2. -/
def t2Bit : BitVec 7 := 0x20

/-- R460: the IFR bit of CB1. -/
def cb1Bit : BitVec 7 := 0x10

/-- R460: the IFR bit of CB2. -/
def cb2Bit : BitVec 7 := 0x08

/-- R460: the IFR bit of the shift register. -/
def srBit : BitVec 7 := 0x04

/-- R460: the IFR bit of CA1. -/
def ca1Bit : BitVec 7 := 0x02

/-- R460: the IFR bit of CA2. -/
def ca2Bit : BitVec 7 := 0x01

/-- R460, R493: the visible bit 7 of IFR, whether any flag is both pending and enabled. -/
def Via.top (v : Via) : Bool := decide (v.ifr &&& v.ier ≠ 0)

/-- R458: `ACR[7]`, T1's output on PB7. -/
def Via.pulseOutput (v : Via) : Bool := v.acr.getLsbD 7

/-- R458: `ACR[6]`, T1 free-run. -/
def Via.freeRun (v : Via) : Bool := v.acr.getLsbD 6

/-- R458: `ACR[5]`, T2 pulse counting. -/
def Via.pulseCounting (v : Via) : Bool := v.acr.getLsbD 5

/-- R458: `ACR[4:2]`, the shift-register mode. -/
def Via.shiftMode (v : Via) : BitVec 3 := v.acr.extractLsb' 2 3

/-- R459: `PCR[3:1]`, the CA2 control. -/
def Via.ca2Control (v : Via) : BitVec 3 := v.pcr.extractLsb' 1 3

/-- R459: `PCR[7:5]`, the CB2 control. -/
def Via.cb2Control (v : Via) : BitVec 3 := v.pcr.extractLsb' 5 3

/-- R459: whether a control value is 100 (handshake output) or 101 (pulse output). -/
def handshakeControl (c : BitVec 3) : Bool := decide (c = 4 ∨ c = 5)

/-- R459: whether a control value is 001 or 011 (independent-interrupt input). -/
def independentControl (c : BitVec 3) : Bool := decide (c = 1 ∨ c = 3)

/-- R463: `view(c) = floor(c / 2) mod 65536`. -/
def view (c : Int) : Address := BitVec.ofInt 16 (c / 2)

/-! ### The line (R493) -/

/-- R51: the bit of `IntStatus` that a peripheral's line drives. -/
def lineMask : TimerId → Byte
  | .t0 => 0x01
  | .t1 => 0x02

/-- A byte with the bits of a mask set or cleared. -/
def withBits (mask : Byte) (on : Bool) (v : Byte) : Byte := if on then v ||| mask else v &&& ~~~mask

/-- R493: `LineUpdate(i)`. -/
def lineUpdate (i : TimerId) (s : State) : State :=
  { s with irq := { s.irq with status := withBits (lineMask i) (s.via i).top s.irq.status } }

/-- A change of one peripheral's fields, followed by its line update. -/
def updateVia (i : TimerId) (f : Via → Via) (s : State) : State := lineUpdate i (s.setVia i (f (s.via i)))

/-! ### Loads, counting and expiry -/

/-- R466: the fields that `LoadT1(i)` changes; `T1L` already holds the new high byte. -/
def Via.loadT1 (v : Via) : Via :=
  { v with
    t1c := 2 * (v.t1l.toNat : Int) + 1
    t1Fired := false
    ifr := v.ifr &&& ~~~t1Bit
    t1Out := if v.pulseOutput then false else v.t1Out }

/-- R467: the fields that `LoadT2(i)` changes. -/
def Via.loadT2 (v : Via) : Via :=
  { v with
    t2c := 2 * (v.t2l.toNat : Int) + 1
    t2Fired := false
    ifr := v.ifr &&& ~~~t2Bit }

/-- R476, R482: a timer whose interrupt is enabled claims the countdown while it is `IDLE`. -/
def claim (enabled : Bool) (counter : Int) (s : State) : State :=
  if enabled ∧ s.irq.countdown = none then { s with irq := { s.irq with countdown := some (claimLead + counter) } }
  else s

/-- R476: whether T1 expires at this poll. -/
def Via.t1Expires (v : Via) : Bool := decide (v.t1c < -2) && (!v.t1Fired || v.freeRun)

/-- R476: the fields an expiry of T1 changes. -/
def Via.t1Expire (v : Via) : Via :=
  { v with
    ifr := v.ifr ||| t1Bit
    t1Out := if v.pulseOutput then !v.t1Out else v.t1Out
    t1Fired := true }

/-- R477: `T1Reload(i)`. -/
def Via.t1Reload (v : Via) : Via :=
  { v with t1c := v.t1c + 2 * (v.t1l.toNat : Int) + 4, t1Fired := false }

/-- R476: the expiry half of `T1Poll(i)`. -/
def t1Fire (i : TimerId) (s : State) : State :=
  if (s.via i).t1Expires then
    claim (decide ((s.via i).ier &&& t1Bit ≠ 0)) (s.via i).t1c (updateVia i Via.t1Expire s)
  else s

/-- R476, R477: whether T1 reloads at this poll. -/
def Via.t1Reloads (v : Via) : Bool := decide (v.t1c < -3) && v.freeRun

/-- R476: `T1Poll(i)`. -/
def t1Poll (i : TimerId) (s : State) : State :=
  let t := t1Fire i s
  if (t.via i).t1Reloads then t.setVia i (t.via i).t1Reload else t

/-- R482: whether T2 expires at this poll. -/
def Via.t2Expires (v : Via) : Bool := decide (v.t2c < -2) && !v.t2Fired

/-- R482: the fields an expiry of T2 changes. -/
def Via.t2Expire (v : Via) : Via := { v with ifr := v.ifr ||| t2Bit, t2Fired := true }

/-- R482: the expiry half of `T2Poll(i)`. -/
def t2Fire (i : TimerId) (s : State) : State :=
  if (s.via i).t2Expires then
    claim (decide ((s.via i).ier &&& t2Bit ≠ 0)) (s.via i).t2c (updateVia i Via.t2Expire s)
  else s

/-- R482, R483: the counter of T2 after its wrap. -/
def Via.t2Wrap (v : Via) : Via := { v with t2c := v.t2c + t2WrapAdd }

/-- R482: `T2Poll(i)`. -/
def t2Poll (i : TimerId) (s : State) : State :=
  let t := t2Fire i s
  if (t.via i).t2c < -3 then t.setVia i (t.via i).t2Wrap else t

/-- R470: the counters after `n` CPU cycles. -/
def Via.count (n : Nat) (v : Via) : Via :=
  { v with
    t1c := v.t1c - (n : Int) * timerUnitsPerCycle
    t2c := if v.pulseCounting then v.t2c else v.t2c - (n : Int) * timerUnitsPerCycle }

/-- R470: `TimerAdvance(i, n)`. -/
def timerAdvance (i : TimerId) (n : Nat) (s : State) : State :=
  t2Poll i (t1Poll i (s.setVia i ((s.via i).count n)))

/-! ### Ports -/

/-- R489: `EXT.pins(i, port)`. -/
def Ext.pins (e : Ext) : TimerId → PortName → Byte
  | .t0, .a => e.pins0A
  | .t0, .b => e.pins0B
  | .t1, .a => e.pins1A
  | .t1, .b => e.pins1B

/-- The environment with the pin levels of one port replaced. -/
def Ext.setPins (e : Ext) (i : TimerId) (port : PortName) (v : Byte) : Ext :=
  match i, port with
  | .t0, .a => { e with pins0A := v }
  | .t0, .b => { e with pins0B := v }
  | .t1, .a => { e with pins1A := v }
  | .t1, .b => { e with pins1B := v }

/-- R489: a port input byte before the T1 output is put on PB7. -/
def portMix (or ddr pins : Byte) : Byte := (or &&& ddr) ||| (pins &&& ~~~ddr)

/-- R489: `PortIn(i, A)`. -/
def Via.portInA (v : Via) (pins : Byte) : Byte := portMix v.ora v.ddra pins

/-- R489: `PortIn(i, B)`. -/
def Via.portInB (v : Via) (pins : Byte) : Byte :=
  if v.pulseOutput then withBits 0x80 v.t1Out (portMix v.orb v.ddrb pins) else portMix v.orb v.ddrb pins

/-- R490: the pins of port A that the block drives, as a mask and the levels on it. -/
def Via.portOutA (v : Via) : Byte × Byte := (v.ddra, v.ora &&& v.ddra)

/-- R490, R478: the pins of port B that the block drives, as a mask and the levels on it; PB7 is `T1Out` when
`ACR[7]` is 1. -/
def Via.portOutB (v : Via) : Byte × Byte :=
  if v.pulseOutput then (v.ddrb ||| 0x80, withBits 0x80 v.t1Out (v.orb &&& v.ddrb)) else (v.ddrb, v.orb &&& v.ddrb)

/-- R490: the level the block drives on CA2, if it drives it: `PCR[1]` when `PCR[3:2]` is 11. -/
def Via.ca2Out (v : Via) : Option Bool :=
  if v.pcr.getLsbD 3 && v.pcr.getLsbD 2 then some (v.pcr.getLsbD 1) else none

/-- R490: the level the block drives on CB2, if it drives it: `PCR[5]` when `PCR[7:6]` is 11. -/
def Via.cb2Out (v : Via) : Option Bool :=
  if v.pcr.getLsbD 7 && v.pcr.getLsbD 6 then some (v.pcr.getLsbD 5) else none

/-- R464: `ClearCtlFlags(i, A)`, before the line update. -/
def Via.clearFlagsA (v : Via) : Via :=
  { v with ifr := v.ifr &&& ~~~(if independentControl v.ca2Control then ca1Bit else ca1Bit ||| ca2Bit) }

/-- R464: `ClearCtlFlags(i, B)`, before the line update. -/
def Via.clearFlagsB (v : Via) : Via :=
  { v with ifr := v.ifr &&& ~~~(if independentControl v.cb2Control then cb1Bit else cb1Bit ||| cb2Bit) }

/-- R464, R487: what an access of offset 1 does before it reads or writes `ORA`. -/
def accessPortA (i : TimerId) (s : State) : Result :=
  if handshakeControl (s.via i).ca2Control then raise (.unsupportedHandshake i 1) s
  else .next (updateVia i Via.clearFlagsA s)

/-- R464, R487: what an access of offset 0 does before it reads or writes `ORB`. -/
def accessPortB (i : TimerId) (s : State) : Result :=
  if handshakeControl (s.via i).cb2Control then raise (.unsupportedHandshake i 0) s
  else .next (updateVia i Via.clearFlagsB s)

/-- R485: `SRAccess(i)`. -/
def accessSR (i : TimerId) (s : State) : Result :=
  if (s.via i).shiftMode ≠ 0 then raise (.unsupportedShiftRegister i 10) s
  else .next (updateVia i (fun v => { v with ifr := v.ifr &&& ~~~srBit }) s)

/-! ### The register interface -/

/-- A read that changes nothing. -/
def yieldByte (v : Byte) (s : State) : Yield Byte := .next (v, s)

/-- R461: `TimerRead(i, off)`. -/
def timerRead (i : TimerId) (off : Nat) (s : State) : Yield Byte :=
  match off with
  | 0 => andThen (accessPortB i s) (yieldByte ((s.via i).portInB (s.ext.pins i .b)))
  | 1 => andThen (accessPortA i s) (yieldByte ((s.via i).portInA (s.ext.pins i .a)))
  | 2 => yieldByte (s.via i).ddrb s
  | 3 => yieldByte (s.via i).ddra s
  | 4 => yieldByte (lo (view (s.via i).t1c)) (updateVia i (fun v => { v with ifr := v.ifr &&& ~~~t1Bit }) s)
  | 5 => yieldByte (hi (view (s.via i).t1c)) s
  | 6 => yieldByte (lo (s.via i).t1l) s
  | 7 => yieldByte (hi (s.via i).t1l) s
  | 8 => yieldByte (lo (view (s.via i).t2c)) (updateVia i (fun v => { v with ifr := v.ifr &&& ~~~t2Bit }) s)
  | 9 => yieldByte (hi (view (s.via i).t2c)) s
  | 10 => andThen (accessSR i s) (yieldByte (s.via i).sr)
  | 11 => yieldByte (s.via i).acr s
  | 12 => yieldByte (s.via i).pcr s
  | 13 => yieldByte (BitVec.ofBool (s.via i).top ++ (s.via i).ifr) s
  | 14 => yieldByte (BitVec.ofBool true ++ (s.via i).ier) s
  | 15 => yieldByte ((s.via i).portInA (s.ext.pins i .a)) s
  | _ => raise (.contractTimerOffset (timerNumber i) off) s

/-- The 7 stored bits of a byte written to IFR or IER. -/
def flagBits (v : Byte) : BitVec 7 := v.setWidth 7

/-- R469: the enable mask after a write of IER. -/
def ierAfterWrite (v : Byte) (ier : BitVec 7) : BitVec 7 :=
  if v.getLsbD 7 then ier ||| flagBits v else ier &&& ~~~flagBits v

/-- R465: `TimerWrite(i, off, v)`. -/
def timerWrite (i : TimerId) (off : Nat) (v : Byte) (s : State) : Result :=
  match off with
  | 0 => andThen (accessPortB i s) fun t => .next (t.setVia i { t.via i with orb := v })
  | 1 => andThen (accessPortA i s) fun t => .next (t.setVia i { t.via i with ora := v })
  | 2 => .next (s.setVia i { s.via i with ddrb := v })
  | 3 => .next (s.setVia i { s.via i with ddra := v })
  | 4 => .next (s.setVia i { s.via i with t1l := pair (hi (s.via i).t1l) v })
  | 5 => .next (updateVia i (fun u => Via.loadT1 { u with t1l := pair v (lo u.t1l) }) s)
  | 6 => .next (s.setVia i { s.via i with t1l := pair (hi (s.via i).t1l) v })
  | 7 => .next (updateVia i (fun u => { u with t1l := pair v (lo u.t1l), ifr := u.ifr &&& ~~~t1Bit }) s)
  | 8 => .next (s.setVia i { s.via i with t2l := pair (hi (s.via i).t2l) v })
  | 9 => .next (updateVia i (fun u => Via.loadT2 { u with t2l := pair v (lo u.t2l) }) s)
  | 10 => andThen (accessSR i s) fun t => .next (t.setVia i { t.via i with sr := v })
  | 11 => .next (s.setVia i { s.via i with acr := v })
  | 12 => .next (s.setVia i { s.via i with pcr := v })
  | 13 => .next (updateVia i (fun u => { u with ifr := u.ifr &&& ~~~flagBits v }) s)
  | 14 => .next (updateVia i (fun u => { u with ier := ierAfterWrite v u.ier }) s)
  | 15 => .next (s.setVia i { s.via i with ora := v })
  | _ => raise (.contractTimerOffset (timerNumber i) off) s

/-! ### Control lines -/

/-- R491: the IFR bit that an active transition of a line sets, if the line's mode takes it. -/
def Via.signalBit (v : Via) : CtlLine → BitVec 7
  | .ca1 => ca1Bit
  | .cb1 => cb1Bit
  | .ca2 => if v.pcr.getLsbD 3 then 0 else ca2Bit
  | .cb2 => if v.pcr.getLsbD 7 then 0 else cb2Bit

/-- R491: `signalControlLine(i, line)`. -/
def signalControlLine (i : TimerId) (line : CtlLine) (s : State) : State :=
  updateVia i (fun v => { v with ifr := v.ifr ||| v.signalBit line }) s

end Sys2Proof.Machine
end

