-- ==== Sys2Proof/Machine/Env.lean ====
section
/-! DEFINITION. The interfaces the environment calls while the block runs: the interrupt port (R410), the trigger
primitives (R202 to R206), and what `EXT.advance` does (R197). A call answers a value or an error; a call that raises
sets `Fault` and changes nothing else, and a faulted block answers every call with its fault (R404). -/

namespace Sys2Proof.Machine

/-- What a call of an interface returns: `Ok(a)` or `Err(e)` (R180). -/
inductive Answer (α : Type) where
  | ok (a : α)
  | err (e : Fault)
deriving DecidableEq, Repr

/-- A call's answer, and the block after it. -/
structure Call (α : Type) where
  answer : Answer α
  state  : State
deriving DecidableEq, Repr

/-- R404: a call that raises: "that call returns `Err(e)` and changes nothing else". -/
def callErr {α : Type} (e : Fault) (s : State) : Call α := ⟨.err e, { s with fault := some e }⟩

/-- R404: while the block is faulted, an interface returns the fault and changes nothing. -/
def guarded {α : Type} (s : State) (c : Call α) : Call α :=
  match s.fault with
  | some e => ⟨.err e, s⟩
  | none => c

/-! ### The interrupt port (R410) -/

/-- R51: whether an id is that of an external source. -/
def externalSource (id : Nat) : Bool := decide (2 ≤ id ∧ id ≤ 6)

/-- The state with one bit of `IntStatus` set or cleared. -/
def writeSource (id : Nat) (on : Bool) (s : State) : State :=
  { s with irq := { s.irq with status := withBits (1#8 <<< id) on s.irq.status } }

/-- R410: a call of the port that sets or clears a source's bit. -/
def portWrite (id : Nat) (on : Bool) (s : State) : Call Unit :=
  guarded s (if externalSource id then ⟨.ok (), writeSource id on s⟩ else callErr (.contractSourceId id) s)

/-- R410: `setInterruptSourceBit(id)`. -/
def setInterruptSourceBit (id : Nat) (s : State) : Call Unit := portWrite id true s

/-- R410: `clearInterruptSourceBit(id)`. -/
def clearInterruptSourceBit (id : Nat) (s : State) : Call Unit := portWrite id false s

/-- R410: `interruptStatus()`. -/
def interruptStatus (s : State) : Call Byte := guarded s ⟨.ok s.irq.status, s⟩

/-! ### Triggers (R202 to R206) -/

/-- R202: `scheduleTrigger(delay)`. -/
def scheduleTrigger (delay : Int) (s : State) : Call Trigger :=
  guarded s ⟨.ok (some ((s.sched.total : Int) + delay)), s⟩

/-- R203: `rescheduleTrigger(delay, previous)`. -/
def rescheduleTrigger (delay : Int) (previous : Trigger) (s : State) : Call Trigger :=
  guarded s
    (match previous with
    | some t => ⟨.ok (some (t + delay)), s⟩
    | none => callErr .contractRescheduleNever s)

/-- R204: `clearTrigger()`. -/
def clearTrigger (s : State) : Call Trigger := guarded s ⟨.ok none, s⟩

/-- R204: whether a trigger is due. -/
def triggerDue (t : Trigger) (s : State) : Bool :=
  match t with
  | some v => decide (v ≤ (s.sched.total : Int))
  | none => false

/-- R205: `totalCycles()`. -/
def totalCycles (s : State) : Call Nat := guarded s ⟨.ok s.sched.total, s⟩

/-- R201: a trigger after a wrap of `w`. -/
def rebase (w : Nat) : Trigger → Trigger
  | some t => some (t - (w : Int))
  | none => none

/-! ### `EXT.advance` -/

/-- R80, R197, R201: the environment is told of one thing more. -/
def State.record (r : ExtRecord) (s : State) : State :=
  { s with ext := { s.ext with history := r :: s.ext.history } }

/-- What the environment does with the answer of a trigger call: it keeps the new trigger as its `k`-th. -/
def keepTrigger (k : Nat) (c : Call Trigger) : State :=
  match c.answer with
  | .ok t => { c.state with ext := { c.state.ext with triggers := c.state.ext.triggers.set k t } }
  | .err _ => c.state

/-- The `k`-th trigger the environment holds; `NEVER` where it holds none. -/
def Ext.trigger (e : Ext) (k : Nat) : Trigger := e.triggers.getD k none

/-- R491, R404: a control-line event reaches a block that is not faulted. -/
def signalIfRunning (i : TimerId) (line : CtlLine) (s : State) : State :=
  match s.fault with
  | some _ => s
  | none => signalControlLine i line s

/-- R197, R206, R491: one thing the environment does. -/
def extEvent (e : ExtEvent) (s : State) : State :=
  match e with
  | .setSource id => (setInterruptSourceBit id s).state
  | .clearSource id => (clearInterruptSourceBit id s).state
  | .signal i line => signalIfRunning i line s
  | .setPins i port v => { s with ext := s.ext.setPins i port v }
  | .schedule k delay => keepTrigger k (scheduleTrigger delay s)
  | .reschedule k delay => keepTrigger k (rescheduleTrigger delay (s.ext.trigger k) s)
  | .clear k => keepTrigger k (clearTrigger s)

/-- The events of one advance, in order. -/
def extEvents : List ExtEvent → State → State
  | [], s => s
  | e :: rest, s => extEvents rest (extEvent e s)

/-- R197: what the environment does in response to an advance: the next thing of its script; a script that has ended
does nothing, as on the reference platform (R98). -/
def extRespond (s : State) : State :=
  match s.ext.script with
  | [] => s
  | now :: later => extEvents now { s with ext := { s.ext with script := later } }

/-- R197: `EXT.advance(n)`: n is handed to the environment, which responds. -/
def extAdvance (n : Nat) (s : State) : State := extRespond (s.record (.advanced n))

end Sys2Proof.Machine
end

