-- ==== Sys2Proof/Machine/Flags.lean ====
section
/-! DEFINITION. The flag helpers of 40_register_ops_addressing.md, the packing of P (R36), and every result and flag
computation of 43_arithmetic_logic.md and 44_shift_rotate.md. -/

namespace Sys2Proof.Machine

/-- R140: `SetZeroNegativeFromValue`. -/
def setZN (v : Byte) (p : Flags) : Flags := { p with z := decide (v = 0), n := v.getLsbD 7 }

/-- R142: `SetCarryZeroNegative`. -/
def setCZN (c z n : Bool) (p : Flags) : Flags := { p with c := c, z := z, n := n }

/-- One flag of `SetFlagsExplicit`: the new value where the mask has the flag, the old one elsewhere. -/
def pickFlag (mask new old : Bool) : Bool := if mask then new else old

/-- R141: `SetFlagsExplicit` "replaces exactly the bits in `mask`". -/
def setFlagsExplicit (mask new p : Flags) : Flags where
  c := pickFlag mask.c new.c p.c
  z := pickFlag mask.z new.z p.z
  i := pickFlag mask.i new.i p.i
  d := pickFlag mask.d new.d p.d
  b := pickFlag mask.b new.b p.b
  v := pickFlag mask.v new.v p.v
  n := pickFlag mask.n new.n p.n

/-- R36: `PackP(b)`, the byte N V 1 b D I Z C. -/
def packP (b : Bool) (p : Flags) : Byte :=
  BitVec.ofBool p.n ++ BitVec.ofBool p.v ++ BitVec.ofBool true ++ BitVec.ofBool b ++
    BitVec.ofBool p.d ++ BitVec.ofBool p.i ++ BitVec.ofBool p.z ++ BitVec.ofBool p.c

/-- R36: `UnpackP(v)`, which ignores bit 5. -/
def unpackP (v : Byte) : Flags where
  c := v.getLsbD 0
  z := v.getLsbD 1
  i := v.getLsbD 2
  d := v.getLsbD 3
  b := v.getLsbD 4
  v := v.getLsbD 6
  n := v.getLsbD 7

/-- R261: the integer sum of ADC, 0 to 511. -/
def adcSum (a m : Byte) (c : Bool) : Nat := a.toNat + m.toNat + c.toNat

/-- R261: the result of ADC. -/
def adcResult (a m : Byte) (c : Bool) : Byte := BitVec.ofNat 8 (adcSum a m c)

/-- R261: the flags of ADC. -/
def adcFlags (a m : Byte) (p : Flags) : Flags :=
  setZN (adcResult a m p.c)
    { p with
      c := decide (256 ≤ adcSum a m p.c)
      v := ((~~~(a ^^^ m)) &&& (a ^^^ adcResult a m p.c)).getLsbD 7 }

/-- R262: the integer difference of SBC, -256 to 255. -/
def sbcDiff (a m : Byte) (c : Bool) : Int := (a.toNat : Int) - (m.toNat : Int) - (1 - (c.toNat : Int))

/-- R262: the result of SBC. -/
def sbcResult (a m : Byte) (c : Bool) : Byte := BitVec.ofInt 8 (sbcDiff a m c)

/-- R262: the flags of SBC. -/
def sbcFlags (a m : Byte) (p : Flags) : Flags :=
  setZN (sbcResult a m p.c)
    { p with
      c := decide (0 ≤ sbcDiff a m p.c)
      v := ((a ^^^ m) &&& (a ^^^ sbcResult a m p.c)).getLsbD 7 }

/-- R266 to R268: the flags of a comparison of register value `r` with operand `m`. -/
def compareFlags (r m : Byte) (p : Flags) : Flags := setZN (r - m) { p with c := decide (m.toNat ≤ r.toNat) }

/-- R269: the flags of BIT. -/
def bitFlags (a m : Byte) (p : Flags) : Flags :=
  { p with z := decide (a &&& m = 0), n := m.getLsbD 7, v := m.getLsbD 6 }

/-- R310: the flags of a shift: the bit shifted out, and the zero and negative of the result. -/
def shiftFlags (out : Bool) (r : Byte) (p : Flags) : Flags := setCZN out (decide (r = 0)) (r.getLsbD 7) p

/-- R311: ASL. -/
def aslResult (m : Byte) (p : Flags) : Byte × Flags :=
  let r : Byte := BitVec.ofNat 8 (m.toNat * 2)
  (r, shiftFlags (m.getLsbD 7) r p)

/-- R312: LSR. -/
def lsrResult (m : Byte) (p : Flags) : Byte × Flags :=
  let r : Byte := BitVec.ofNat 8 (m.toNat / 2)
  (r, setCZN (m.getLsbD 0) (decide (r = 0)) false p)

/-- R313: ROL, the old carry entering bit 0. -/
def rolResult (m : Byte) (p : Flags) : Byte × Flags :=
  let r : Byte := BitVec.ofNat 8 (m.toNat * 2 + p.c.toNat)
  (r, shiftFlags (m.getLsbD 7) r p)

/-- R314: ROR, the old carry entering bit 7. -/
def rorResult (m : Byte) (p : Flags) : Byte × Flags :=
  let r : Byte := BitVec.ofNat 8 (m.toNat / 2 + 128 * p.c.toNat)
  (r, shiftFlags (m.getLsbD 0) r p)

/-- R270: INC. -/
def incResult (m : Byte) (p : Flags) : Byte × Flags := (m + 1, setZN (m + 1) p)

/-- R271: DEC. -/
def decResult (m : Byte) (p : Flags) : Byte × Flags := (m - 1, setZN (m - 1) p)

end Sys2Proof.Machine
end

