-- ==== Sys2Proof/Machine/Ops.lean ====
section
/-! DEFINITION. The shared operations over time, bus and registers: `Advance` (R196), the bus accesses and their waits
(R82, R86), `Fetch` (R184), the stack (R143 to R146), the wrap check (R200), taking an exception (R372, R415) and
returning from one (R373). -/

namespace Sys2Proof.Machine

/-! ### Time -/

/-- R196: the cycles go to the instruction, or to the interrupt entry while one runs. -/
def Sched.charge (n : Nat) (c : Sched) : Sched :=
  if c.inEntry then { c with entry := c.entry + n } else { c with instr := c.instr + n }

/-- R196, R52: every advance takes a countdown that is not `IDLE` down. -/
def countDown (n : Nat) : Option Int → Option Int
  | some k => some (k - (n : Int))
  | none => none

/-- R196: the block's own clock, before the timers and the environment: the cost accumulator and the countdown. -/
def chargeTime (n : Nat) (s : State) : State :=
  { s with sched := s.sched.charge n, irq := { s.irq with countdown := countDown n s.irq.countdown } }

/-- R196: `Advance(n)`. -/
def advance (n : Nat) (s : State) : State :=
  if n = 0 then s else extAdvance n (timerAdvance .t1 n (timerAdvance .t0 n (chargeTime n s)))

/-- R200, R201: `WrapCheck()`; a wrap rebases every trigger and is handed to the environment. -/
def wrapCheck (s : State) : State :=
  if s.platform.cycleWrap < s.sched.total then
    State.record (.wrapped s.platform.cycleWrap)
      { s with
        sched := { s.sched with total := s.sched.total - s.platform.cycleWrap }
        ext := { s.ext with triggers := s.ext.triggers.map (rebase s.platform.cycleWrap) } }
  else s

/-- R199: an increase of `TotalCycles`, followed by the wrap check. -/
def addTotal (n : Nat) (s : State) : State :=
  wrapCheck { s with sched := { s.sched with total := s.sched.total + n } }

/-! ### The bus -/

/-- Where a bus access goes (R82). -/
inductive Route where
  | timer (i : TimerId) (off : Nat)
  | device
  | memory
deriving DecidableEq, Repr

/-- R82: the offset of an address in the 16-byte window at a base, if it lies in it. -/
def windowOffset (base : Option Address) (a : Address) : Option Nat :=
  match base with
  | some b => if b.toNat ≤ a.toNat ∧ a.toNat ≤ b.toNat + 15 then some (a.toNat - b.toNat) else none
  | none => none

/-- Whether an address lies in one of the ranges. -/
def inRegions (a : Address) : List Region → Bool
  | [] => false
  | r :: rest => decide (r.base ≤ a.toNat ∧ a.toNat < r.base + r.size) || inRegions a rest

/-- R82: the routing of a bus access; what no timer window takes goes to `EXT`, to a device of it or to its memory. -/
def route (p : Platform) (a : Address) : Route :=
  match windowOffset p.timerBase0 a with
  | some off => .timer .t0 off
  | none =>
    match windowOffset p.timerBase1 a with
    | some off => .timer .t1 off
    | none => if inRegions a p.devices then .device else .memory

/-- R82, R80: one bus read, without its wait. What reaches the environment is recorded; a device answers as the
history so far and the environment's free choice have it. -/
def busRead (a : Address) (s : State) : Yield Byte :=
  match route s.platform a with
  | .timer i off => timerRead i off s
  | .device => .next (Config.extByte s.ext.choice s.ext.history a, s.record (.read a))
  | .memory => .next (readByte s.mem a.toNat, s.record (.read a))

/-- R82, R80: one bus write, without its wait. What reaches the environment is recorded. -/
def busWrite (a : Address) (v : Byte) (s : State) : Result :=
  match route s.platform a with
  | .timer i off => timerWrite i off v s
  | .device => .next (s.record (.write a v))
  | .memory => .next { s.record (.write a v) with mem := writeByte s.mem a.toNat v }

/-- The wait that a list of rules gives an access; 0 where none names it. -/
def waitIn (a : Address) (k : AccessKind) : List WaitRule → Nat
  | [] => 0
  | r :: rest => if r.addr = a ∧ r.kind = k then r.cycles else waitIn a k rest

/-- R86: right after an access, `Advance(w)`, and `IOCycles` grows by `w`. -/
def ioWait (k : AccessKind) (a : Address) (s : State) : State :=
  let w := waitIn a k s.platform.ioWait
  let t := advance w s
  { t with sched := { t.sched with io := t.sched.io + w } }

/-- R13: `MemRead(a, 1)`, an access of kind `k`. -/
def memRead (k : AccessKind) (a : Address) (s : State) : Yield Byte :=
  andThen (busRead a s) fun r => .next (r.1, ioWait k a r.2)

/-- R13: `MemWrite(a, 1, v)`. -/
def memWrite (a : Address) (v : Byte) (s : State) : Result :=
  andThen (busWrite a v s) fun t => .next (ioWait .write a t)

/-- R13: `MemRead16(a, b)`, the low byte at `a` and then the high byte at `b`. -/
def memRead16 (a b : Address) (s : State) : Yield Address :=
  andThen (memRead .read a s) fun l => andThen (memRead .read b l.2) fun h => .next (pair h.1 l.1, h.2)

/-! ### Registers -/

/-- The state with the program counter replaced. -/
def State.setPc (s : State) (pc : Address) : State := { s with regs := { s.regs with pc := pc } }

/-- The state with the stack pointer replaced. -/
def State.setSp (s : State) (sp : Byte) : State := { s with regs := { s.regs with sp := sp } }

/-- The state with the status flags replaced. -/
def State.setP (s : State) (p : Flags) : State := { s with regs := { s.regs with p := p } }

/-- R184: `Fetch()`. -/
def fetch (s : State) : Yield Byte :=
  andThen (memRead .fetch s.regs.pc s) fun r => .next (r.1, r.2.setPc (r.2.regs.pc + 1))

/-! ### The stack -/

/-- R34: the address of the stack byte that a stack pointer designates. -/
def stackAddr (sp : Byte) : Address := stackPage + zext16 sp

/-- R143: `Push(v)`. -/
def push (v : Byte) (s : State) : Result :=
  andThen (memWrite (stackAddr s.regs.sp) v s) fun t => .next (t.setSp (t.regs.sp - 1))

/-- R144: `Pop()`. -/
def pop (s : State) : Yield Byte :=
  let t := s.setSp (s.regs.sp + 1)
  memRead .read (stackAddr t.regs.sp) t

/-- R145: `Push16(w)`, the high byte first. -/
def push16 (w : Address) (s : State) : Result := andThen (push (hi w) s) (push (lo w))

/-- R146: `Pop16()`, the low byte first. -/
def pop16 (s : State) : Yield Address :=
  andThen (pop s) fun l => andThen (pop l.2) fun h => .next (pair h.1 l.1, h.2)

/-! ### Exceptions -/

/-- R372, R415: the vector pair that BRK and interrupt entry share. -/
def readVector (v : Address) (s : State) : Yield Address := memRead16 v (v + 1) s

/-- R372, R415, R374: taking an exception. The address and then the status, with bit 4 as given, are pushed; I is set;
the program counter is loaded from the vector at 0xFFFE. -/
def takeException (ret : Address) (brk : Bool) (s : State) : Result :=
  andThen (push16 ret s) fun t =>
  andThen (push (packP brk t.regs.p) t) fun u =>
  andThen (readVector irqVector (u.setP { u.regs.p with i := true })) fun r => .next (r.2.setPc r.1)

/-- R373: returning from an exception: the status is pulled, then the program counter, verbatim. -/
def returnFromException (s : State) : Result :=
  andThen (pop s) fun v =>
  andThen (pop16 (v.2.setP (unpackP v.1))) fun w => .next (w.2.setPc w.1)

/-- R343: `TrackI(old, new)`. -/
def trackI (old new : Bool) (s : State) : State :=
  { s with irq := { s.irq with justSet := !old && new, justCleared := old && !new } }

end Sys2Proof.Machine
end

