-- ==== Sys2Proof/Machine/Operands.lean ====
section
/-! DEFINITION. The addressing-mode resolver (R150 to R165), the cost schedule (R186 to R188), the operand of an
instruction (R209), and the shapes that the meanings share. -/

namespace Sys2Proof.Machine

/-- The modes that yield an effective address (R150), with the operand of the instruction. -/
inductive EaMode where
  | zp (z : Byte)
  | zpx (z : Byte)
  | zpy (z : Byte)
  | abs (w : Address)
  | abx (w : Address)
  | aby (w : Address)
  | izx (z : Byte)
  | izy (z : Byte)
deriving DecidableEq, Repr

/-- The operand of a read-class instruction (R209): an immediate byte, or the byte at an effective address. -/
inductive Operand where
  | imm (b : Byte)
  | byte (m : EaMode)
deriving DecidableEq, Repr

/-- What the resolver yields (R150): the effective address, and whether the index crossed a page. -/
structure Resolved where
  ea      : Address
  crossed : Bool
deriving DecidableEq, Repr

/-- R158, R160, R161: a base address indexed by a register. -/
def indexed (base : Address) (index : Byte) : Resolved where
  ea := base + zext16 index
  crossed := decide (page base ≠ page (base + zext16 index))

/-- R157, R158: the 16-bit pointer at a zero-page address, both of whose bytes are in zero page. -/
def zpPointer (z : Byte) (s : State) : Yield Address := memRead16 (zext16 z) (zext16 (z + 1)) s

/-- R153 to R161: the resolver, with the pointer reads of R165. -/
def resolve (m : EaMode) (s : State) : Yield Resolved :=
  match m with
  | .zp z => .next (⟨zext16 z, false⟩, s)
  | .zpx z => .next (⟨zext16 (z + s.regs.x), false⟩, s)
  | .zpy z => .next (⟨zext16 (z + s.regs.y), false⟩, s)
  | .abs w => .next (⟨w, false⟩, s)
  | .abx w => .next (indexed w s.regs.x, s)
  | .aby w => .next (indexed w s.regs.y, s)
  | .izx z => andThen (zpPointer (z + s.regs.x) s) fun r => .next (⟨r.1, false⟩, r.2)
  | .izy z => andThen (zpPointer z s) fun r => .next (indexed r.1 r.2.regs.y, r.2)

/-- R159: the address that holds the high byte of an indirect jump's target, in the same page as the low byte. -/
def indirectHigh (w : Address) : Address := pair (hi w) (lo w + 1)

/-- R159: the target of the IND mode. -/
def resolveIndirect (w : Address) (s : State) : Yield Address := memRead16 w (indirectHigh w) s

/-! ### The cost schedule -/

/-- One row of Table 41-1: `base_cycles`, `page_cross_penalty`, `read_sub` and `write_sub`, a missing sub-cost being 0
(R186). -/
structure Timing where
  base     : Nat
  penalty  : Bool := false
  readSub  : Nat := 0
  writeSub : Nat := 0
deriving DecidableEq, Repr

/-- R187: the page-crossing cycle. -/
def Timing.crossing (t : Timing) (crossed : Bool) : Nat := (t.penalty && crossed).toNat

/-- R186: `GatedRead`. -/
def gatedRead (t : Timing) (r : Resolved) (s : State) : Yield Byte :=
  memRead .read r.ea (advance (t.readSub + t.crossing r.crossed) s)

/-- R186: `GatedWrite`. -/
def gatedWrite (t : Timing) (a : Address) (v : Byte) (s : State) : Result :=
  memWrite a v (advance t.writeSub s)

/-- R188: `Remainder(op)`. -/
def Timing.remainder (t : Timing) (s : State) : Nat := t.base - t.readSub - t.writeSub + s.sched.branch

/-- R188: the end of an instruction's own work, the advance by its remainder. -/
def finish (t : Timing) (s : State) : Result := .next (advance (t.remainder s) s)

/-! ### The shapes of the meanings -/

/-- R209: `Load(op)`. -/
def load (t : Timing) (o : Operand) (s : State) : Yield Byte :=
  match o with
  | .imm b => .next (b, s)
  | .byte m => andThen (resolve m s) fun r => gatedRead t r.1 r.2

/-- R209: a read-class instruction. -/
def readOp (t : Timing) (o : Operand) (f : Byte → State → Result) (s : State) : Result :=
  andThen (load t o s) fun r => andThen (f r.1 r.2) (finish t)

/-- A read-class instruction that changes registers only. -/
def readRegOp (t : Timing) (o : Operand) (f : Byte → Regs → Regs) (s : State) : Result :=
  readOp t o (fun m u => .next { u with regs := f m u.regs }) s

/-- R209: a write-class instruction, storing a register. -/
def writeOp (t : Timing) (m : EaMode) (f : Regs → Byte) (s : State) : Result :=
  andThen (resolve m s) fun r => andThen (gatedWrite t r.1.ea (f r.2.regs) r.2) (finish t)

/-- R209: a read-modify-write instruction; `f` computes the result and the flags. -/
def rmwOp (t : Timing) (m : EaMode) (f : Byte → Flags → Byte × Flags) (s : State) : Result :=
  andThen (resolve m s) fun r =>
  andThen (gatedRead t r.1 r.2) fun q =>
  andThen (gatedWrite t r.1.ea (f q.1 q.2.regs.p).1 q.2) fun u =>
  finish t (u.setP (f q.1 q.2.regs.p).2)

/-- An instruction that changes registers only and makes no access of its own. -/
def regOp (t : Timing) (f : Regs → Regs) (s : State) : Result := finish t { s with regs := f s.regs }

/-- R310: the accumulator form of a read-modify-write instruction. -/
def accOp (t : Timing) (f : Byte → Flags → Byte × Flags) (s : State) : Result :=
  regOp t (fun r => { r with a := (f r.a r.p).1, p := (f r.a r.p).2 }) s

/-- An instruction with effects of its own, followed by its remainder. -/
def plainOp (t : Timing) (f : State → Result) (s : State) : Result := andThen (f s) (finish t)

end Sys2Proof.Machine
end

