-- ==== Sys2Proof/Machine/Arith.lean ====
section
/-! DEFINITION. The arithmetic, logical, compare, increment and decrement instructions (43_arithmetic_logic.md), with the timing of
Table 41-1. -/

namespace Sys2Proof.Machine

/-- R261: the effect of ADC with opcode `op`; decimal mode is an error raised after the operand read and before any
write (R402). -/
def adc (op : Byte) (m : Byte) (s : State) : Result :=
  if s.regs.p.d then raise (.unsupportedDecimal op) s
  else .next { s with regs := { s.regs with a := adcResult s.regs.a m s.regs.p.c, p := adcFlags s.regs.a m s.regs.p } }

/-- R262: the effect of SBC with opcode `op`; decimal mode is an error at the same point as in ADC. -/
def sbc (op : Byte) (m : Byte) (s : State) : Result :=
  if s.regs.p.d then raise (.unsupportedDecimal op) s
  else .next { s with regs := { s.regs with a := sbcResult s.regs.a m s.regs.p.c, p := sbcFlags s.regs.a m s.regs.p } }

/-- R263: the effect of AND. -/
def andA (m : Byte) (r : Regs) : Regs := { r with a := r.a &&& m, p := setZN (r.a &&& m) r.p }

/-- R264: the effect of ORA. -/
def oraA (m : Byte) (r : Regs) : Regs := { r with a := r.a ||| m, p := setZN (r.a ||| m) r.p }

/-- R265: the effect of EOR. -/
def eorA (m : Byte) (r : Regs) : Regs := { r with a := r.a ^^^ m, p := setZN (r.a ^^^ m) r.p }

/-- R269: the effect of BIT. -/
def bitTest (m : Byte) (r : Regs) : Regs := { r with p := bitFlags r.a m r.p }

/-- R266: the effect of CMP. -/
def compareA (m : Byte) (r : Regs) : Regs := { r with p := compareFlags r.a m r.p }

/-- R267: the effect of CPX. -/
def compareX (m : Byte) (r : Regs) : Regs := { r with p := compareFlags r.x m r.p }

/-- R268: the effect of CPY. -/
def compareY (m : Byte) (r : Regs) : Regs := { r with p := compareFlags r.y m r.p }

/-- R272: the effect of INX. -/
def incrementX (r : Regs) : Regs := { r with x := r.x + 1, p := setZN (r.x + 1) r.p }

/-- R273: the effect of INY. -/
def incrementY (r : Regs) : Regs := { r with y := r.y + 1, p := setZN (r.y + 1) r.p }

/-- R274: the effect of DEX. -/
def decrementX (r : Regs) : Regs := { r with x := r.x - 1, p := setZN (r.x - 1) r.p }

/-- R275: the effect of DEY. -/
def decrementY (r : Regs) : Regs := { r with y := r.y - 1, p := setZN (r.y - 1) r.p }

/-- R261. `ADC ($nn,X)`, 0x61. -/
def execAdcIzx (b : Byte) (s : State) : Result := readOp { base := 6, readSub := 5 } (.byte (.izx b)) (adc 0x61) s

/-- R261. `ADC $nn`, 0x65. -/
def execAdcZp (b : Byte) (s : State) : Result := readOp { base := 3, readSub := 2 } (.byte (.zp b)) (adc 0x65) s

/-- R261. `ADC #$nn`, 0x69. -/
def execAdcImm (b : Byte) (s : State) : Result := readOp { base := 2 } (.imm b) (adc 0x69) s

/-- R261. `ADC $nnnn`, 0x6D. -/
def execAdcAbs (w : Address) (s : State) : Result := readOp { base := 4, readSub := 3 } (.byte (.abs w)) (adc 0x6D) s

/-- R261. `ADC ($nn),Y`, 0x71. -/
def execAdcIzy (b : Byte) (s : State) : Result :=
  readOp { base := 5, penalty := true, readSub := 4 } (.byte (.izy b)) (adc 0x71) s

/-- R261. `ADC $nn,X`, 0x75. -/
def execAdcZpx (b : Byte) (s : State) : Result := readOp { base := 4, readSub := 3 } (.byte (.zpx b)) (adc 0x75) s

/-- R261. `ADC $nnnn,Y`, 0x79. -/
def execAdcAby (w : Address) (s : State) : Result :=
  readOp { base := 4, penalty := true, readSub := 3 } (.byte (.aby w)) (adc 0x79) s

/-- R261. `ADC $nnnn,X`, 0x7D. -/
def execAdcAbx (w : Address) (s : State) : Result :=
  readOp { base := 4, penalty := true, readSub := 3 } (.byte (.abx w)) (adc 0x7D) s

/-- R262. `SBC ($nn,X)`, 0xE1. -/
def execSbcIzx (b : Byte) (s : State) : Result := readOp { base := 6, readSub := 5 } (.byte (.izx b)) (sbc 0xE1) s

/-- R262. `SBC $nn`, 0xE5. -/
def execSbcZp (b : Byte) (s : State) : Result := readOp { base := 3, readSub := 2 } (.byte (.zp b)) (sbc 0xE5) s

/-- R262. `SBC #$nn`, 0xE9. -/
def execSbcImm (b : Byte) (s : State) : Result := readOp { base := 2 } (.imm b) (sbc 0xE9) s

/-- R262. `SBC $nnnn`, 0xED. -/
def execSbcAbs (w : Address) (s : State) : Result := readOp { base := 4, readSub := 3 } (.byte (.abs w)) (sbc 0xED) s

/-- R262. `SBC ($nn),Y`, 0xF1. -/
def execSbcIzy (b : Byte) (s : State) : Result :=
  readOp { base := 5, penalty := true, readSub := 4 } (.byte (.izy b)) (sbc 0xF1) s

/-- R262. `SBC $nn,X`, 0xF5. -/
def execSbcZpx (b : Byte) (s : State) : Result := readOp { base := 4, readSub := 3 } (.byte (.zpx b)) (sbc 0xF5) s

/-- R262. `SBC $nnnn,Y`, 0xF9. -/
def execSbcAby (w : Address) (s : State) : Result :=
  readOp { base := 4, penalty := true, readSub := 3 } (.byte (.aby w)) (sbc 0xF9) s

/-- R262. `SBC $nnnn,X`, 0xFD. -/
def execSbcAbx (w : Address) (s : State) : Result :=
  readOp { base := 4, penalty := true, readSub := 3 } (.byte (.abx w)) (sbc 0xFD) s

/-- R263. `AND ($nn,X)`, 0x21. -/
def execAndIzx (b : Byte) (s : State) : Result := readRegOp { base := 6, readSub := 5 } (.byte (.izx b)) andA s

/-- R263. `AND $nn`, 0x25. -/
def execAndZp (b : Byte) (s : State) : Result := readRegOp { base := 3, readSub := 2 } (.byte (.zp b)) andA s

/-- R263. `AND #$nn`, 0x29. -/
def execAndImm (b : Byte) (s : State) : Result := readRegOp { base := 2 } (.imm b) andA s

/-- R263. `AND $nnnn`, 0x2D. -/
def execAndAbs (w : Address) (s : State) : Result := readRegOp { base := 4, readSub := 3 } (.byte (.abs w)) andA s

/-- R263. `AND ($nn),Y`, 0x31. -/
def execAndIzy (b : Byte) (s : State) : Result :=
  readRegOp { base := 5, penalty := true, readSub := 4 } (.byte (.izy b)) andA s

/-- R263. `AND $nn,X`, 0x35. -/
def execAndZpx (b : Byte) (s : State) : Result := readRegOp { base := 4, readSub := 3 } (.byte (.zpx b)) andA s

/-- R263. `AND $nnnn,Y`, 0x39. -/
def execAndAby (w : Address) (s : State) : Result :=
  readRegOp { base := 4, penalty := true, readSub := 3 } (.byte (.aby w)) andA s

/-- R263. `AND $nnnn,X`, 0x3D. -/
def execAndAbx (w : Address) (s : State) : Result :=
  readRegOp { base := 4, penalty := true, readSub := 3 } (.byte (.abx w)) andA s

/-- R264. `ORA ($nn,X)`, 0x01. -/
def execOraIzx (b : Byte) (s : State) : Result := readRegOp { base := 6, readSub := 5 } (.byte (.izx b)) oraA s

/-- R264. `ORA $nn`, 0x05. -/
def execOraZp (b : Byte) (s : State) : Result := readRegOp { base := 3, readSub := 2 } (.byte (.zp b)) oraA s

/-- R264. `ORA #$nn`, 0x09. -/
def execOraImm (b : Byte) (s : State) : Result := readRegOp { base := 2 } (.imm b) oraA s

/-- R264. `ORA $nnnn`, 0x0D. -/
def execOraAbs (w : Address) (s : State) : Result := readRegOp { base := 4, readSub := 3 } (.byte (.abs w)) oraA s

/-- R264. `ORA ($nn),Y`, 0x11. -/
def execOraIzy (b : Byte) (s : State) : Result :=
  readRegOp { base := 5, penalty := true, readSub := 4 } (.byte (.izy b)) oraA s

/-- R264. `ORA $nn,X`, 0x15. -/
def execOraZpx (b : Byte) (s : State) : Result := readRegOp { base := 4, readSub := 3 } (.byte (.zpx b)) oraA s

/-- R264. `ORA $nnnn,Y`, 0x19. -/
def execOraAby (w : Address) (s : State) : Result :=
  readRegOp { base := 4, penalty := true, readSub := 3 } (.byte (.aby w)) oraA s

/-- R264. `ORA $nnnn,X`, 0x1D. -/
def execOraAbx (w : Address) (s : State) : Result :=
  readRegOp { base := 4, penalty := true, readSub := 3 } (.byte (.abx w)) oraA s

/-- R265. `EOR ($nn,X)`, 0x41. -/
def execEorIzx (b : Byte) (s : State) : Result := readRegOp { base := 6, readSub := 5 } (.byte (.izx b)) eorA s

/-- R265. `EOR $nn`, 0x45. -/
def execEorZp (b : Byte) (s : State) : Result := readRegOp { base := 3, readSub := 2 } (.byte (.zp b)) eorA s

/-- R265. `EOR #$nn`, 0x49. -/
def execEorImm (b : Byte) (s : State) : Result := readRegOp { base := 2 } (.imm b) eorA s

/-- R265. `EOR $nnnn`, 0x4D. -/
def execEorAbs (w : Address) (s : State) : Result := readRegOp { base := 4, readSub := 3 } (.byte (.abs w)) eorA s

/-- R265. `EOR ($nn),Y`, 0x51. -/
def execEorIzy (b : Byte) (s : State) : Result :=
  readRegOp { base := 5, penalty := true, readSub := 4 } (.byte (.izy b)) eorA s

/-- R265. `EOR $nn,X`, 0x55. -/
def execEorZpx (b : Byte) (s : State) : Result := readRegOp { base := 4, readSub := 3 } (.byte (.zpx b)) eorA s

/-- R265. `EOR $nnnn,Y`, 0x59. -/
def execEorAby (w : Address) (s : State) : Result :=
  readRegOp { base := 4, penalty := true, readSub := 3 } (.byte (.aby w)) eorA s

/-- R265. `EOR $nnnn,X`, 0x5D. -/
def execEorAbx (w : Address) (s : State) : Result :=
  readRegOp { base := 4, penalty := true, readSub := 3 } (.byte (.abx w)) eorA s

/-- R269. `BIT $nn`, 0x24. -/
def execBitZp (b : Byte) (s : State) : Result := readRegOp { base := 3, readSub := 2 } (.byte (.zp b)) bitTest s

/-- R269. `BIT $nnnn`, 0x2C. -/
def execBitAbs (w : Address) (s : State) : Result := readRegOp { base := 4, readSub := 3 } (.byte (.abs w)) bitTest s

/-- R266. `CMP ($nn,X)`, 0xC1. -/
def execCmpIzx (b : Byte) (s : State) : Result := readRegOp { base := 6, readSub := 5 } (.byte (.izx b)) compareA s

/-- R266. `CMP $nn`, 0xC5. -/
def execCmpZp (b : Byte) (s : State) : Result := readRegOp { base := 3, readSub := 2 } (.byte (.zp b)) compareA s

/-- R266. `CMP #$nn`, 0xC9. -/
def execCmpImm (b : Byte) (s : State) : Result := readRegOp { base := 2 } (.imm b) compareA s

/-- R266. `CMP $nnnn`, 0xCD. -/
def execCmpAbs (w : Address) (s : State) : Result := readRegOp { base := 4, readSub := 3 } (.byte (.abs w)) compareA s

/-- R266. `CMP ($nn),Y`, 0xD1. -/
def execCmpIzy (b : Byte) (s : State) : Result :=
  readRegOp { base := 5, penalty := true, readSub := 4 } (.byte (.izy b)) compareA s

/-- R266. `CMP $nn,X`, 0xD5. -/
def execCmpZpx (b : Byte) (s : State) : Result := readRegOp { base := 4, readSub := 3 } (.byte (.zpx b)) compareA s

/-- R266. `CMP $nnnn,Y`, 0xD9. -/
def execCmpAby (w : Address) (s : State) : Result :=
  readRegOp { base := 4, penalty := true, readSub := 3 } (.byte (.aby w)) compareA s

/-- R266. `CMP $nnnn,X`, 0xDD. -/
def execCmpAbx (w : Address) (s : State) : Result :=
  readRegOp { base := 4, penalty := true, readSub := 3 } (.byte (.abx w)) compareA s

/-- R267. `CPX #$nn`, 0xE0. -/
def execCpxImm (b : Byte) (s : State) : Result := readRegOp { base := 2 } (.imm b) compareX s

/-- R267. `CPX $nn`, 0xE4. -/
def execCpxZp (b : Byte) (s : State) : Result := readRegOp { base := 3, readSub := 2 } (.byte (.zp b)) compareX s

/-- R267. `CPX $nnnn`, 0xEC. -/
def execCpxAbs (w : Address) (s : State) : Result := readRegOp { base := 4, readSub := 3 } (.byte (.abs w)) compareX s

/-- R268. `CPY #$nn`, 0xC0. -/
def execCpyImm (b : Byte) (s : State) : Result := readRegOp { base := 2 } (.imm b) compareY s

/-- R268. `CPY $nn`, 0xC4. -/
def execCpyZp (b : Byte) (s : State) : Result := readRegOp { base := 3, readSub := 2 } (.byte (.zp b)) compareY s

/-- R268. `CPY $nnnn`, 0xCC. -/
def execCpyAbs (w : Address) (s : State) : Result := readRegOp { base := 4, readSub := 3 } (.byte (.abs w)) compareY s

/-- R270. `INC $nn`, 0xE6. -/
def execIncZp (b : Byte) (s : State) : Result := rmwOp { base := 5, readSub := 2, writeSub := 2 } (.zp b) incResult s

/-- R270. `INC $nnnn`, 0xEE. -/
def execIncAbs (w : Address) (s : State) : Result :=
  rmwOp { base := 6, readSub := 3, writeSub := 2 } (.abs w) incResult s

/-- R270. `INC $nn,X`, 0xF6. -/
def execIncZpx (b : Byte) (s : State) : Result :=
  rmwOp { base := 6, readSub := 3, writeSub := 2 } (.zpx b) incResult s

/-- R270. `INC $nnnn,X`, 0xFE. -/
def execIncAbx (w : Address) (s : State) : Result :=
  rmwOp { base := 7, readSub := 4, writeSub := 2 } (.abx w) incResult s

/-- R271. `DEC $nn`, 0xC6. -/
def execDecZp (b : Byte) (s : State) : Result := rmwOp { base := 5, readSub := 2, writeSub := 2 } (.zp b) decResult s

/-- R271. `DEC $nnnn`, 0xCE. -/
def execDecAbs (w : Address) (s : State) : Result :=
  rmwOp { base := 6, readSub := 3, writeSub := 2 } (.abs w) decResult s

/-- R271. `DEC $nn,X`, 0xD6. -/
def execDecZpx (b : Byte) (s : State) : Result :=
  rmwOp { base := 6, readSub := 3, writeSub := 2 } (.zpx b) decResult s

/-- R271. `DEC $nnnn,X`, 0xDE. -/
def execDecAbx (w : Address) (s : State) : Result :=
  rmwOp { base := 7, readSub := 4, writeSub := 2 } (.abx w) decResult s

/-- R272. `INX`, 0xE8. -/
def execInx (s : State) : Result := regOp { base := 2 } incrementX s

/-- R273. `INY`, 0xC8. -/
def execIny (s : State) : Result := regOp { base := 2 } incrementY s

/-- R274. `DEX`, 0xCA. -/
def execDex (s : State) : Result := regOp { base := 2 } decrementX s

/-- R275. `DEY`, 0x88. -/
def execDey (s : State) : Result := regOp { base := 2 } decrementY s

end Sys2Proof.Machine
end

