-- ==== Sys2Proof/Machine/Control.lean ====
section
/-! DEFINITION. The branches, jumps, subroutine call and return, software interrupt and return from interrupt
(46_control_transfer.md), with the timing of Table 41-1. -/

namespace Sys2Proof.Machine

/-- R163: the target of a branch, from the post-fetch program counter. -/
def branchTarget (pc : Address) (d : Byte) : Address := pc + sext16 d

/-- R360: `BranchExtra` of a taken branch: 1, and 1 more when the target is on another page than the next instruction. -/
def branchCost (pc target : Address) : Nat := if page target ≠ page pc then 2 else 1

/-- R360: `Branch(cond)`. -/
def branch (cond : Bool) (d : Byte) (s : State) : State :=
  if cond then
    { s with
      regs := { s.regs with pc := branchTarget s.regs.pc d }
      sched := { s.sched with branch := branchCost s.regs.pc (branchTarget s.regs.pc d) } }
  else s

/-- R360: a branch instruction. -/
def branchOp (t : Timing) (cond : Bool) (d : Byte) (s : State) : Result := finish t (branch cond d s)

/-- R369: the effect of JMP in the ABS form. -/
def jump (w : Address) (s : State) : Result := .next (s.setPc w)

/-- R369, R159: the effect of JMP in the IND form. -/
def jumpIndirect (w : Address) (s : State) : Result :=
  andThen (resolveIndirect w s) fun r => .next (r.2.setPc r.1)

/-- R370: the effect of JSR; the return address pushed is that of the instruction's last byte. -/
def call (w : Address) (s : State) : Result := andThen (push16 (s.regs.pc - 1) s) fun t => .next (t.setPc w)

/-- R371: the effect of RTS. -/
def returnFromSubroutine (s : State) : Result := andThen (pop16 s) fun r => .next (r.2.setPc (r.1 + 1))

/-- R372: the effect of BRK, which skips the byte after its opcode and does not track its change of I. -/
def softwareInterrupt (s : State) : Result := takeException (s.regs.pc + 1) true s

/-- R361. `BPL label`, 0x10. -/
def execBpl (d : Byte) (s : State) : Result := branchOp { base := 2 } (!s.regs.p.n) d s

/-- R362. `BMI label`, 0x30. -/
def execBmi (d : Byte) (s : State) : Result := branchOp { base := 2 } s.regs.p.n d s

/-- R363. `BVC label`, 0x50. -/
def execBvc (d : Byte) (s : State) : Result := branchOp { base := 2 } (!s.regs.p.v) d s

/-- R364. `BVS label`, 0x70. -/
def execBvs (d : Byte) (s : State) : Result := branchOp { base := 2 } s.regs.p.v d s

/-- R365. `BCC label`, 0x90. -/
def execBcc (d : Byte) (s : State) : Result := branchOp { base := 2 } (!s.regs.p.c) d s

/-- R366. `BCS label`, 0xB0. -/
def execBcs (d : Byte) (s : State) : Result := branchOp { base := 2 } s.regs.p.c d s

/-- R367. `BNE label`, 0xD0. -/
def execBne (d : Byte) (s : State) : Result := branchOp { base := 2 } (!s.regs.p.z) d s

/-- R368. `BEQ label`, 0xF0. -/
def execBeq (d : Byte) (s : State) : Result := branchOp { base := 2 } s.regs.p.z d s

/-- R369. `JMP $nnnn`, 0x4C. -/
def execJmpAbs (w : Address) (s : State) : Result := plainOp { base := 3 } (jump w) s

/-- R369. `JMP ($nnnn)`, 0x6C. -/
def execJmpInd (w : Address) (s : State) : Result := plainOp { base := 5 } (jumpIndirect w) s

/-- R370. `JSR $nnnn`, 0x20. -/
def execJsr (w : Address) (s : State) : Result := plainOp { base := 6 } (call w) s

/-- R371. `RTS`, 0x60. -/
def execRts (s : State) : Result := plainOp { base := 6 } returnFromSubroutine s

/-- R372. `BRK`, 0x00. -/
def execBrk (s : State) : Result := plainOp { base := 7 } softwareInterrupt s

/-- R373. `RTI`, 0x40. -/
def execRti (s : State) : Result := plainOp { base := 6 } returnFromException s

end Sys2Proof.Machine
end

