-- ==== Sys2Proof/Machine/LoadStore.lean ====
section
/-! DEFINITION. The load, store and transfer instructions (42_load_store_transfer.md), with the timing of Table 41-1. -/

namespace Sys2Proof.Machine

/-- R221: the effect of LDA. -/
def loadA (m : Byte) (r : Regs) : Regs := { r with a := m, p := setZN m r.p }

/-- R222: the effect of LDX. -/
def loadX (m : Byte) (r : Regs) : Regs := { r with x := m, p := setZN m r.p }

/-- R223: the effect of LDY. -/
def loadY (m : Byte) (r : Regs) : Regs := { r with y := m, p := setZN m r.p }

/-- R227: the effect of TAX. -/
def transferAX (r : Regs) : Regs := { r with x := r.a, p := setZN r.a r.p }

/-- R228: the effect of TAY. -/
def transferAY (r : Regs) : Regs := { r with y := r.a, p := setZN r.a r.p }

/-- R229: the effect of TXA. -/
def transferXA (r : Regs) : Regs := { r with a := r.x, p := setZN r.x r.p }

/-- R230: the effect of TYA. -/
def transferYA (r : Regs) : Regs := { r with a := r.y, p := setZN r.y r.p }

/-- R231: the effect of TSX. -/
def transferSX (r : Regs) : Regs := { r with x := r.sp, p := setZN r.sp r.p }

/-- R232: the effect of TXS, which writes no flag. -/
def transferXS (r : Regs) : Regs := { r with sp := r.x }

/-- R221. `LDA ($nn,X)`, 0xA1. -/
def execLdaIzx (b : Byte) (s : State) : Result := readRegOp { base := 6, readSub := 5 } (.byte (.izx b)) loadA s

/-- R221. `LDA $nn`, 0xA5. -/
def execLdaZp (b : Byte) (s : State) : Result := readRegOp { base := 3, readSub := 2 } (.byte (.zp b)) loadA s

/-- R221. `LDA #$nn`, 0xA9. -/
def execLdaImm (b : Byte) (s : State) : Result := readRegOp { base := 2 } (.imm b) loadA s

/-- R221. `LDA $nnnn`, 0xAD. -/
def execLdaAbs (w : Address) (s : State) : Result := readRegOp { base := 4, readSub := 3 } (.byte (.abs w)) loadA s

/-- R221. `LDA ($nn),Y`, 0xB1. -/
def execLdaIzy (b : Byte) (s : State) : Result :=
  readRegOp { base := 5, penalty := true, readSub := 4 } (.byte (.izy b)) loadA s

/-- R221. `LDA $nn,X`, 0xB5. -/
def execLdaZpx (b : Byte) (s : State) : Result := readRegOp { base := 4, readSub := 3 } (.byte (.zpx b)) loadA s

/-- R221. `LDA $nnnn,Y`, 0xB9. -/
def execLdaAby (w : Address) (s : State) : Result :=
  readRegOp { base := 4, penalty := true, readSub := 3 } (.byte (.aby w)) loadA s

/-- R221. `LDA $nnnn,X`, 0xBD. -/
def execLdaAbx (w : Address) (s : State) : Result :=
  readRegOp { base := 4, penalty := true, readSub := 3 } (.byte (.abx w)) loadA s

/-- R222. `LDX #$nn`, 0xA2. -/
def execLdxImm (b : Byte) (s : State) : Result := readRegOp { base := 2 } (.imm b) loadX s

/-- R222. `LDX $nn`, 0xA6. -/
def execLdxZp (b : Byte) (s : State) : Result := readRegOp { base := 3, readSub := 2 } (.byte (.zp b)) loadX s

/-- R222. `LDX $nnnn`, 0xAE. -/
def execLdxAbs (w : Address) (s : State) : Result := readRegOp { base := 4, readSub := 3 } (.byte (.abs w)) loadX s

/-- R222. `LDX $nn,Y`, 0xB6. -/
def execLdxZpy (b : Byte) (s : State) : Result := readRegOp { base := 4, readSub := 3 } (.byte (.zpy b)) loadX s

/-- R222. `LDX $nnnn,Y`, 0xBE. -/
def execLdxAby (w : Address) (s : State) : Result :=
  readRegOp { base := 4, penalty := true, readSub := 3 } (.byte (.aby w)) loadX s

/-- R223. `LDY #$nn`, 0xA0. -/
def execLdyImm (b : Byte) (s : State) : Result := readRegOp { base := 2 } (.imm b) loadY s

/-- R223. `LDY $nn`, 0xA4. -/
def execLdyZp (b : Byte) (s : State) : Result := readRegOp { base := 3, readSub := 2 } (.byte (.zp b)) loadY s

/-- R223. `LDY $nnnn`, 0xAC. -/
def execLdyAbs (w : Address) (s : State) : Result := readRegOp { base := 4, readSub := 3 } (.byte (.abs w)) loadY s

/-- R223. `LDY $nn,X`, 0xB4. -/
def execLdyZpx (b : Byte) (s : State) : Result := readRegOp { base := 4, readSub := 3 } (.byte (.zpx b)) loadY s

/-- R223. `LDY $nnnn,X`, 0xBC. -/
def execLdyAbx (w : Address) (s : State) : Result :=
  readRegOp { base := 4, penalty := true, readSub := 3 } (.byte (.abx w)) loadY s

/-- R224. `STA ($nn,X)`, 0x81. -/
def execStaIzx (b : Byte) (s : State) : Result := writeOp { base := 6, writeSub := 5 } (.izx b) Regs.a s

/-- R224. `STA $nn`, 0x85. -/
def execStaZp (b : Byte) (s : State) : Result := writeOp { base := 3, writeSub := 2 } (.zp b) Regs.a s

/-- R224. `STA $nnnn`, 0x8D. -/
def execStaAbs (w : Address) (s : State) : Result := writeOp { base := 4, writeSub := 3 } (.abs w) Regs.a s

/-- R224. `STA ($nn),Y`, 0x91. -/
def execStaIzy (b : Byte) (s : State) : Result := writeOp { base := 6, writeSub := 5 } (.izy b) Regs.a s

/-- R224. `STA $nn,X`, 0x95. -/
def execStaZpx (b : Byte) (s : State) : Result := writeOp { base := 4, writeSub := 3 } (.zpx b) Regs.a s

/-- R224. `STA $nnnn,Y`, 0x99. -/
def execStaAby (w : Address) (s : State) : Result := writeOp { base := 5, writeSub := 4 } (.aby w) Regs.a s

/-- R224. `STA $nnnn,X`, 0x9D. -/
def execStaAbx (w : Address) (s : State) : Result := writeOp { base := 5, writeSub := 4 } (.abx w) Regs.a s

/-- R225. `STX $nn`, 0x86. -/
def execStxZp (b : Byte) (s : State) : Result := writeOp { base := 3, writeSub := 2 } (.zp b) Regs.x s

/-- R225. `STX $nnnn`, 0x8E. -/
def execStxAbs (w : Address) (s : State) : Result := writeOp { base := 4, writeSub := 3 } (.abs w) Regs.x s

/-- R225. `STX $nn,Y`, 0x96. -/
def execStxZpy (b : Byte) (s : State) : Result := writeOp { base := 4, writeSub := 3 } (.zpy b) Regs.x s

/-- R226. `STY $nn`, 0x84. -/
def execStyZp (b : Byte) (s : State) : Result := writeOp { base := 3, writeSub := 2 } (.zp b) Regs.y s

/-- R226. `STY $nnnn`, 0x8C. -/
def execStyAbs (w : Address) (s : State) : Result := writeOp { base := 4, writeSub := 3 } (.abs w) Regs.y s

/-- R226. `STY $nn,X`, 0x94. -/
def execStyZpx (b : Byte) (s : State) : Result := writeOp { base := 4, writeSub := 3 } (.zpx b) Regs.y s

/-- R227. `TAX`, 0xAA. -/
def execTax (s : State) : Result := regOp { base := 2 } transferAX s

/-- R228. `TAY`, 0xA8. -/
def execTay (s : State) : Result := regOp { base := 2 } transferAY s

/-- R229. `TXA`, 0x8A. -/
def execTxa (s : State) : Result := regOp { base := 2 } transferXA s

/-- R230. `TYA`, 0x98. -/
def execTya (s : State) : Result := regOp { base := 2 } transferYA s

/-- R231. `TSX`, 0xBA. -/
def execTsx (s : State) : Result := regOp { base := 2 } transferSX s

/-- R232. `TXS`, 0x9A. -/
def execTxs (s : State) : Result := regOp { base := 2 } transferXS s

end Sys2Proof.Machine
end

