-- ==== Sys2Proof/Machine/Shift.lean ====
section
/-! DEFINITION. The shift and rotate instructions (44_shift_rotate.md), with the timing of Table 41-1. -/

namespace Sys2Proof.Machine

/-- R311. `ASL $nn`, 0x06. -/
def execAslZp (b : Byte) (s : State) : Result := rmwOp { base := 5, readSub := 2, writeSub := 2 } (.zp b) aslResult s

/-- R311. `ASL A`, 0x0A. -/
def execAslAcc (s : State) : Result := accOp { base := 2 } aslResult s

/-- R311. `ASL $nnnn`, 0x0E. -/
def execAslAbs (w : Address) (s : State) : Result :=
  rmwOp { base := 6, readSub := 3, writeSub := 2 } (.abs w) aslResult s

/-- R311. `ASL $nn,X`, 0x16. -/
def execAslZpx (b : Byte) (s : State) : Result :=
  rmwOp { base := 6, readSub := 3, writeSub := 2 } (.zpx b) aslResult s

/-- R311. `ASL $nnnn,X`, 0x1E. -/
def execAslAbx (w : Address) (s : State) : Result :=
  rmwOp { base := 7, readSub := 4, writeSub := 2 } (.abx w) aslResult s

/-- R312. `LSR $nn`, 0x46. -/
def execLsrZp (b : Byte) (s : State) : Result := rmwOp { base := 5, readSub := 2, writeSub := 2 } (.zp b) lsrResult s

/-- R312. `LSR A`, 0x4A. -/
def execLsrAcc (s : State) : Result := accOp { base := 2 } lsrResult s

/-- R312. `LSR $nnnn`, 0x4E. -/
def execLsrAbs (w : Address) (s : State) : Result :=
  rmwOp { base := 6, readSub := 3, writeSub := 2 } (.abs w) lsrResult s

/-- R312. `LSR $nn,X`, 0x56. -/
def execLsrZpx (b : Byte) (s : State) : Result :=
  rmwOp { base := 6, readSub := 3, writeSub := 2 } (.zpx b) lsrResult s

/-- R312. `LSR $nnnn,X`, 0x5E. -/
def execLsrAbx (w : Address) (s : State) : Result :=
  rmwOp { base := 7, readSub := 4, writeSub := 2 } (.abx w) lsrResult s

/-- R313. `ROL $nn`, 0x26. -/
def execRolZp (b : Byte) (s : State) : Result := rmwOp { base := 5, readSub := 2, writeSub := 2 } (.zp b) rolResult s

/-- R313. `ROL A`, 0x2A. -/
def execRolAcc (s : State) : Result := accOp { base := 2 } rolResult s

/-- R313. `ROL $nnnn`, 0x2E. -/
def execRolAbs (w : Address) (s : State) : Result :=
  rmwOp { base := 6, readSub := 3, writeSub := 2 } (.abs w) rolResult s

/-- R313. `ROL $nn,X`, 0x36. -/
def execRolZpx (b : Byte) (s : State) : Result :=
  rmwOp { base := 6, readSub := 3, writeSub := 2 } (.zpx b) rolResult s

/-- R313. `ROL $nnnn,X`, 0x3E. -/
def execRolAbx (w : Address) (s : State) : Result :=
  rmwOp { base := 7, readSub := 4, writeSub := 2 } (.abx w) rolResult s

/-- R314. `ROR $nn`, 0x66. -/
def execRorZp (b : Byte) (s : State) : Result := rmwOp { base := 5, readSub := 2, writeSub := 2 } (.zp b) rorResult s

/-- R314. `ROR A`, 0x6A. -/
def execRorAcc (s : State) : Result := accOp { base := 2 } rorResult s

/-- R314. `ROR $nnnn`, 0x6E. -/
def execRorAbs (w : Address) (s : State) : Result :=
  rmwOp { base := 6, readSub := 3, writeSub := 2 } (.abs w) rorResult s

/-- R314. `ROR $nn,X`, 0x76. -/
def execRorZpx (b : Byte) (s : State) : Result :=
  rmwOp { base := 6, readSub := 3, writeSub := 2 } (.zpx b) rorResult s

/-- R314. `ROR $nnnn,X`, 0x7E. -/
def execRorAbx (w : Address) (s : State) : Result :=
  rmwOp { base := 7, readSub := 4, writeSub := 2 } (.abx w) rorResult s

end Sys2Proof.Machine
end

