-- ==== Sys2Proof/Machine/StackFlags.lean ====
section
/-! DEFINITION. The stack, flag and no-operation instructions (45_stack_flags_misc.md), with the timing of Table 41-1. -/

namespace Sys2Proof.Machine

/-- R331: the effect of PHA. -/
def pushA (s : State) : Result := push s.regs.a s

/-- R332: the effect of PHP, which pushes bits 4 and 5 as 1. -/
def pushP (s : State) : Result := push (packP true s.regs.p) s

/-- R333: the effect of PLA. -/
def pullA (s : State) : Result :=
  andThen (pop s) fun r => .next { r.2 with regs := { r.2.regs with a := r.1, p := setZN r.1 r.2.regs.p } }

/-- R334: the effect of PLP, whose change of I is tracked (R343). -/
def pullP (s : State) : Result :=
  andThen (pop s) fun r => .next (trackI s.regs.p.i (unpackP r.1).i (r.2.setP (unpackP r.1)))

/-- R337, R341: the effect of CLI and SEI, whose change of I is tracked (R343). -/
def writeI (new : Bool) (s : State) : Result := .next (trackI s.regs.p.i new (s.setP { s.regs.p with i := new }))

/-- No flag: the mask of R141 that each flag instruction adds its own flag to. -/
def noFlags : Flags := { c := false, z := false, i := false, d := false, b := false, v := false, n := false }

/-- R335: the effect of CLC. -/
def clearC (r : Regs) : Regs := { r with p := setFlagsExplicit { noFlags with c := true } noFlags r.p }

/-- R336: the effect of CLD. -/
def clearD (r : Regs) : Regs := { r with p := setFlagsExplicit { noFlags with d := true } noFlags r.p }

/-- R338: the effect of CLV. -/
def clearV (r : Regs) : Regs := { r with p := setFlagsExplicit { noFlags with v := true } noFlags r.p }

/-- R339: the effect of SEC. -/
def setC (r : Regs) : Regs :=
  { r with p := setFlagsExplicit { noFlags with c := true } { noFlags with c := true } r.p }

/-- R340: the effect of SED, which is no error. -/
def setD (r : Regs) : Regs :=
  { r with p := setFlagsExplicit { noFlags with d := true } { noFlags with d := true } r.p }

/-- R331. `PHA`, 0x48. -/
def execPha (s : State) : Result := plainOp { base := 3 } pushA s

/-- R332. `PHP`, 0x08. -/
def execPhp (s : State) : Result := plainOp { base := 3 } pushP s

/-- R333. `PLA`, 0x68. -/
def execPla (s : State) : Result := plainOp { base := 4 } pullA s

/-- R334. `PLP`, 0x28. -/
def execPlp (s : State) : Result := plainOp { base := 4 } pullP s

/-- R335. `CLC`, 0x18. -/
def execClc (s : State) : Result := regOp { base := 2 } clearC s

/-- R336. `CLD`, 0xD8. -/
def execCld (s : State) : Result := regOp { base := 2 } clearD s

/-- R337. `CLI`, 0x58. -/
def execCli (s : State) : Result := plainOp { base := 2 } (writeI false) s

/-- R338. `CLV`, 0xB8. -/
def execClv (s : State) : Result := regOp { base := 2 } clearV s

/-- R339. `SEC`, 0x38. -/
def execSec (s : State) : Result := regOp { base := 2 } setC s

/-- R340. `SED`, 0xF8. -/
def execSed (s : State) : Result := regOp { base := 2 } setD s

/-- R341. `SEI`, 0x78. -/
def execSei (s : State) : Result := plainOp { base := 2 } (writeI true) s

/-- R342. `NOP`, 0xEA. -/
def execNop (s : State) : Result := finish { base := 2 } s

end Sys2Proof.Machine
end

