-- ==== Sys2Proof/Syntax.lean ====
section
/-! DEFINITION. The instructions: one constructor for each of the 151 rows of spec/opcode_table.json (R113), named
after the row's mnemonic and, where the mnemonic has more than one form, its format. A constructor's argument is the
operand as R112 assembles it: the byte after the opcode, or the 16-bit word of the two bytes after it. -/

namespace Sys2Proof

/-- The formats of Table 30-1 (R111), which are the addressing modes. -/
inductive Format where
  | imp | acc | imm | zp | zpx | zpy | abs | abx | aby | ind | izx | izy | rel
deriving DecidableEq, Repr


/-- The 56 mnemonics (R113). -/
inductive Mnemonic where
  | adc | and | asl | bcc | bcs | beq | bit | bmi
  | bne | bpl | brk | bvc | bvs | clc | cld | cli
  | clv | cmp | cpx | cpy | dec | dex | dey | eor
  | inc | inx | iny | jmp | jsr | lda | ldx | ldy
  | lsr | nop | ora | pha | php | pla | plp | rol
  | ror | rti | rts | sbc | sec | sed | sei | sta
  | stx | sty | tax | tay | tsx | txa | txs | tya
deriving DecidableEq, Repr

/-- The instructions of Table 30-2 (R113), in the order of their opcodes. -/
inductive Instr where
  /-- `BRK`, opcode 0x00 (R372). -/
  | brk
  /-- `ORA ($nn,X)`, opcode 0x01 (R264). -/
  | oraIzx (b : Byte)
  /-- `ORA $nn`, opcode 0x05 (R264). -/
  | oraZp (b : Byte)
  /-- `ASL $nn`, opcode 0x06 (R311). -/
  | aslZp (b : Byte)
  /-- `PHP`, opcode 0x08 (R332). -/
  | php
  /-- `ORA #$nn`, opcode 0x09 (R264). -/
  | oraImm (b : Byte)
  /-- `ASL A`, opcode 0x0A (R311). -/
  | aslAcc
  /-- `ORA $nnnn`, opcode 0x0D (R264). -/
  | oraAbs (w : Address)
  /-- `ASL $nnnn`, opcode 0x0E (R311). -/
  | aslAbs (w : Address)
  /-- `BPL label`, opcode 0x10 (R361). -/
  | bpl (d : Byte)
  /-- `ORA ($nn),Y`, opcode 0x11 (R264). -/
  | oraIzy (b : Byte)
  /-- `ORA $nn,X`, opcode 0x15 (R264). -/
  | oraZpx (b : Byte)
  /-- `ASL $nn,X`, opcode 0x16 (R311). -/
  | aslZpx (b : Byte)
  /-- `CLC`, opcode 0x18 (R335). -/
  | clc
  /-- `ORA $nnnn,Y`, opcode 0x19 (R264). -/
  | oraAby (w : Address)
  /-- `ORA $nnnn,X`, opcode 0x1D (R264). -/
  | oraAbx (w : Address)
  /-- `ASL $nnnn,X`, opcode 0x1E (R311). -/
  | aslAbx (w : Address)
  /-- `JSR $nnnn`, opcode 0x20 (R370). -/
  | jsr (w : Address)
  /-- `AND ($nn,X)`, opcode 0x21 (R263). -/
  | andIzx (b : Byte)
  /-- `BIT $nn`, opcode 0x24 (R269). -/
  | bitZp (b : Byte)
  /-- `AND $nn`, opcode 0x25 (R263). -/
  | andZp (b : Byte)
  /-- `ROL $nn`, opcode 0x26 (R313). -/
  | rolZp (b : Byte)
  /-- `PLP`, opcode 0x28 (R334). -/
  | plp
  /-- `AND #$nn`, opcode 0x29 (R263). -/
  | andImm (b : Byte)
  /-- `ROL A`, opcode 0x2A (R313). -/
  | rolAcc
  /-- `BIT $nnnn`, opcode 0x2C (R269). -/
  | bitAbs (w : Address)
  /-- `AND $nnnn`, opcode 0x2D (R263). -/
  | andAbs (w : Address)
  /-- `ROL $nnnn`, opcode 0x2E (R313). -/
  | rolAbs (w : Address)
  /-- `BMI label`, opcode 0x30 (R362). -/
  | bmi (d : Byte)
  /-- `AND ($nn),Y`, opcode 0x31 (R263). -/
  | andIzy (b : Byte)
  /-- `AND $nn,X`, opcode 0x35 (R263). -/
  | andZpx (b : Byte)
  /-- `ROL $nn,X`, opcode 0x36 (R313). -/
  | rolZpx (b : Byte)
  /-- `SEC`, opcode 0x38 (R339). -/
  | sec
  /-- `AND $nnnn,Y`, opcode 0x39 (R263). -/
  | andAby (w : Address)
  /-- `AND $nnnn,X`, opcode 0x3D (R263). -/
  | andAbx (w : Address)
  /-- `ROL $nnnn,X`, opcode 0x3E (R313). -/
  | rolAbx (w : Address)
  /-- `RTI`, opcode 0x40 (R373). -/
  | rti
  /-- `EOR ($nn,X)`, opcode 0x41 (R265). -/
  | eorIzx (b : Byte)
  /-- `EOR $nn`, opcode 0x45 (R265). -/
  | eorZp (b : Byte)
  /-- `LSR $nn`, opcode 0x46 (R312). -/
  | lsrZp (b : Byte)
  /-- `PHA`, opcode 0x48 (R331). -/
  | pha
  /-- `EOR #$nn`, opcode 0x49 (R265). -/
  | eorImm (b : Byte)
  /-- `LSR A`, opcode 0x4A (R312). -/
  | lsrAcc
  /-- `JMP $nnnn`, opcode 0x4C (R369). -/
  | jmpAbs (w : Address)
  /-- `EOR $nnnn`, opcode 0x4D (R265). -/
  | eorAbs (w : Address)
  /-- `LSR $nnnn`, opcode 0x4E (R312). -/
  | lsrAbs (w : Address)
  /-- `BVC label`, opcode 0x50 (R363). -/
  | bvc (d : Byte)
  /-- `EOR ($nn),Y`, opcode 0x51 (R265). -/
  | eorIzy (b : Byte)
  /-- `EOR $nn,X`, opcode 0x55 (R265). -/
  | eorZpx (b : Byte)
  /-- `LSR $nn,X`, opcode 0x56 (R312). -/
  | lsrZpx (b : Byte)
  /-- `CLI`, opcode 0x58 (R337). -/
  | cli
  /-- `EOR $nnnn,Y`, opcode 0x59 (R265). -/
  | eorAby (w : Address)
  /-- `EOR $nnnn,X`, opcode 0x5D (R265). -/
  | eorAbx (w : Address)
  /-- `LSR $nnnn,X`, opcode 0x5E (R312). -/
  | lsrAbx (w : Address)
  /-- `RTS`, opcode 0x60 (R371). -/
  | rts
  /-- `ADC ($nn,X)`, opcode 0x61 (R261). -/
  | adcIzx (b : Byte)
  /-- `ADC $nn`, opcode 0x65 (R261). -/
  | adcZp (b : Byte)
  /-- `ROR $nn`, opcode 0x66 (R314). -/
  | rorZp (b : Byte)
  /-- `PLA`, opcode 0x68 (R333). -/
  | pla
  /-- `ADC #$nn`, opcode 0x69 (R261). -/
  | adcImm (b : Byte)
  /-- `ROR A`, opcode 0x6A (R314). -/
  | rorAcc
  /-- `JMP ($nnnn)`, opcode 0x6C (R369). -/
  | jmpInd (w : Address)
  /-- `ADC $nnnn`, opcode 0x6D (R261). -/
  | adcAbs (w : Address)
  /-- `ROR $nnnn`, opcode 0x6E (R314). -/
  | rorAbs (w : Address)
  /-- `BVS label`, opcode 0x70 (R364). -/
  | bvs (d : Byte)
  /-- `ADC ($nn),Y`, opcode 0x71 (R261). -/
  | adcIzy (b : Byte)
  /-- `ADC $nn,X`, opcode 0x75 (R261). -/
  | adcZpx (b : Byte)
  /-- `ROR $nn,X`, opcode 0x76 (R314). -/
  | rorZpx (b : Byte)
  /-- `SEI`, opcode 0x78 (R341). -/
  | sei
  /-- `ADC $nnnn,Y`, opcode 0x79 (R261). -/
  | adcAby (w : Address)
  /-- `ADC $nnnn,X`, opcode 0x7D (R261). -/
  | adcAbx (w : Address)
  /-- `ROR $nnnn,X`, opcode 0x7E (R314). -/
  | rorAbx (w : Address)
  /-- `STA ($nn,X)`, opcode 0x81 (R224). -/
  | staIzx (b : Byte)
  /-- `STY $nn`, opcode 0x84 (R226). -/
  | styZp (b : Byte)
  /-- `STA $nn`, opcode 0x85 (R224). -/
  | staZp (b : Byte)
  /-- `STX $nn`, opcode 0x86 (R225). -/
  | stxZp (b : Byte)
  /-- `DEY`, opcode 0x88 (R275). -/
  | dey
  /-- `TXA`, opcode 0x8A (R229). -/
  | txa
  /-- `STY $nnnn`, opcode 0x8C (R226). -/
  | styAbs (w : Address)
  /-- `STA $nnnn`, opcode 0x8D (R224). -/
  | staAbs (w : Address)
  /-- `STX $nnnn`, opcode 0x8E (R225). -/
  | stxAbs (w : Address)
  /-- `BCC label`, opcode 0x90 (R365). -/
  | bcc (d : Byte)
  /-- `STA ($nn),Y`, opcode 0x91 (R224). -/
  | staIzy (b : Byte)
  /-- `STY $nn,X`, opcode 0x94 (R226). -/
  | styZpx (b : Byte)
  /-- `STA $nn,X`, opcode 0x95 (R224). -/
  | staZpx (b : Byte)
  /-- `STX $nn,Y`, opcode 0x96 (R225). -/
  | stxZpy (b : Byte)
  /-- `TYA`, opcode 0x98 (R230). -/
  | tya
  /-- `STA $nnnn,Y`, opcode 0x99 (R224). -/
  | staAby (w : Address)
  /-- `TXS`, opcode 0x9A (R232). -/
  | txs
  /-- `STA $nnnn,X`, opcode 0x9D (R224). -/
  | staAbx (w : Address)
  /-- `LDY #$nn`, opcode 0xA0 (R223). -/
  | ldyImm (b : Byte)
  /-- `LDA ($nn,X)`, opcode 0xA1 (R221). -/
  | ldaIzx (b : Byte)
  /-- `LDX #$nn`, opcode 0xA2 (R222). -/
  | ldxImm (b : Byte)
  /-- `LDY $nn`, opcode 0xA4 (R223). -/
  | ldyZp (b : Byte)
  /-- `LDA $nn`, opcode 0xA5 (R221). -/
  | ldaZp (b : Byte)
  /-- `LDX $nn`, opcode 0xA6 (R222). -/
  | ldxZp (b : Byte)
  /-- `TAY`, opcode 0xA8 (R228). -/
  | tay
  /-- `LDA #$nn`, opcode 0xA9 (R221). -/
  | ldaImm (b : Byte)
  /-- `TAX`, opcode 0xAA (R227). -/
  | tax
  /-- `LDY $nnnn`, opcode 0xAC (R223). -/
  | ldyAbs (w : Address)
  /-- `LDA $nnnn`, opcode 0xAD (R221). -/
  | ldaAbs (w : Address)
  /-- `LDX $nnnn`, opcode 0xAE (R222). -/
  | ldxAbs (w : Address)
  /-- `BCS label`, opcode 0xB0 (R366). -/
  | bcs (d : Byte)
  /-- `LDA ($nn),Y`, opcode 0xB1 (R221). -/
  | ldaIzy (b : Byte)
  /-- `LDY $nn,X`, opcode 0xB4 (R223). -/
  | ldyZpx (b : Byte)
  /-- `LDA $nn,X`, opcode 0xB5 (R221). -/
  | ldaZpx (b : Byte)
  /-- `LDX $nn,Y`, opcode 0xB6 (R222). -/
  | ldxZpy (b : Byte)
  /-- `CLV`, opcode 0xB8 (R338). -/
  | clv
  /-- `LDA $nnnn,Y`, opcode 0xB9 (R221). -/
  | ldaAby (w : Address)
  /-- `TSX`, opcode 0xBA (R231). -/
  | tsx
  /-- `LDY $nnnn,X`, opcode 0xBC (R223). -/
  | ldyAbx (w : Address)
  /-- `LDA $nnnn,X`, opcode 0xBD (R221). -/
  | ldaAbx (w : Address)
  /-- `LDX $nnnn,Y`, opcode 0xBE (R222). -/
  | ldxAby (w : Address)
  /-- `CPY #$nn`, opcode 0xC0 (R268). -/
  | cpyImm (b : Byte)
  /-- `CMP ($nn,X)`, opcode 0xC1 (R266). -/
  | cmpIzx (b : Byte)
  /-- `CPY $nn`, opcode 0xC4 (R268). -/
  | cpyZp (b : Byte)
  /-- `CMP $nn`, opcode 0xC5 (R266). -/
  | cmpZp (b : Byte)
  /-- `DEC $nn`, opcode 0xC6 (R271). -/
  | decZp (b : Byte)
  /-- `INY`, opcode 0xC8 (R273). -/
  | iny
  /-- `CMP #$nn`, opcode 0xC9 (R266). -/
  | cmpImm (b : Byte)
  /-- `DEX`, opcode 0xCA (R274). -/
  | dex
  /-- `CPY $nnnn`, opcode 0xCC (R268). -/
  | cpyAbs (w : Address)
  /-- `CMP $nnnn`, opcode 0xCD (R266). -/
  | cmpAbs (w : Address)
  /-- `DEC $nnnn`, opcode 0xCE (R271). -/
  | decAbs (w : Address)
  /-- `BNE label`, opcode 0xD0 (R367). -/
  | bne (d : Byte)
  /-- `CMP ($nn),Y`, opcode 0xD1 (R266). -/
  | cmpIzy (b : Byte)
  /-- `CMP $nn,X`, opcode 0xD5 (R266). -/
  | cmpZpx (b : Byte)
  /-- `DEC $nn,X`, opcode 0xD6 (R271). -/
  | decZpx (b : Byte)
  /-- `CLD`, opcode 0xD8 (R336). -/
  | cld
  /-- `CMP $nnnn,Y`, opcode 0xD9 (R266). -/
  | cmpAby (w : Address)
  /-- `CMP $nnnn,X`, opcode 0xDD (R266). -/
  | cmpAbx (w : Address)
  /-- `DEC $nnnn,X`, opcode 0xDE (R271). -/
  | decAbx (w : Address)
  /-- `CPX #$nn`, opcode 0xE0 (R267). -/
  | cpxImm (b : Byte)
  /-- `SBC ($nn,X)`, opcode 0xE1 (R262). -/
  | sbcIzx (b : Byte)
  /-- `CPX $nn`, opcode 0xE4 (R267). -/
  | cpxZp (b : Byte)
  /-- `SBC $nn`, opcode 0xE5 (R262). -/
  | sbcZp (b : Byte)
  /-- `INC $nn`, opcode 0xE6 (R270). -/
  | incZp (b : Byte)
  /-- `INX`, opcode 0xE8 (R272). -/
  | inx
  /-- `SBC #$nn`, opcode 0xE9 (R262). -/
  | sbcImm (b : Byte)
  /-- `NOP`, opcode 0xEA (R342). -/
  | nop
  /-- `CPX $nnnn`, opcode 0xEC (R267). -/
  | cpxAbs (w : Address)
  /-- `SBC $nnnn`, opcode 0xED (R262). -/
  | sbcAbs (w : Address)
  /-- `INC $nnnn`, opcode 0xEE (R270). -/
  | incAbs (w : Address)
  /-- `BEQ label`, opcode 0xF0 (R368). -/
  | beq (d : Byte)
  /-- `SBC ($nn),Y`, opcode 0xF1 (R262). -/
  | sbcIzy (b : Byte)
  /-- `SBC $nn,X`, opcode 0xF5 (R262). -/
  | sbcZpx (b : Byte)
  /-- `INC $nn,X`, opcode 0xF6 (R270). -/
  | incZpx (b : Byte)
  /-- `SED`, opcode 0xF8 (R340). -/
  | sed
  /-- `SBC $nnnn,Y`, opcode 0xF9 (R262). -/
  | sbcAby (w : Address)
  /-- `SBC $nnnn,X`, opcode 0xFD (R262). -/
  | sbcAbx (w : Address)
  /-- `INC $nnnn,X`, opcode 0xFE (R270). -/
  | incAbx (w : Address)
deriving DecidableEq, Repr

/-- The mnemonic of an instruction: the cell of Table 30-2. -/
def Instr.mnemonic : Instr → Mnemonic
  | .brk => .brk
  | .oraIzx _ => .ora
  | .oraZp _ => .ora
  | .aslZp _ => .asl
  | .php => .php
  | .oraImm _ => .ora
  | .aslAcc => .asl
  | .oraAbs _ => .ora
  | .aslAbs _ => .asl
  | .bpl _ => .bpl
  | .oraIzy _ => .ora
  | .oraZpx _ => .ora
  | .aslZpx _ => .asl
  | .clc => .clc
  | .oraAby _ => .ora
  | .oraAbx _ => .ora
  | .aslAbx _ => .asl
  | .jsr _ => .jsr
  | .andIzx _ => .and
  | .bitZp _ => .bit
  | .andZp _ => .and
  | .rolZp _ => .rol
  | .plp => .plp
  | .andImm _ => .and
  | .rolAcc => .rol
  | .bitAbs _ => .bit
  | .andAbs _ => .and
  | .rolAbs _ => .rol
  | .bmi _ => .bmi
  | .andIzy _ => .and
  | .andZpx _ => .and
  | .rolZpx _ => .rol
  | .sec => .sec
  | .andAby _ => .and
  | .andAbx _ => .and
  | .rolAbx _ => .rol
  | .rti => .rti
  | .eorIzx _ => .eor
  | .eorZp _ => .eor
  | .lsrZp _ => .lsr
  | .pha => .pha
  | .eorImm _ => .eor
  | .lsrAcc => .lsr
  | .jmpAbs _ => .jmp
  | .eorAbs _ => .eor
  | .lsrAbs _ => .lsr
  | .bvc _ => .bvc
  | .eorIzy _ => .eor
  | .eorZpx _ => .eor
  | .lsrZpx _ => .lsr
  | .cli => .cli
  | .eorAby _ => .eor
  | .eorAbx _ => .eor
  | .lsrAbx _ => .lsr
  | .rts => .rts
  | .adcIzx _ => .adc
  | .adcZp _ => .adc
  | .rorZp _ => .ror
  | .pla => .pla
  | .adcImm _ => .adc
  | .rorAcc => .ror
  | .jmpInd _ => .jmp
  | .adcAbs _ => .adc
  | .rorAbs _ => .ror
  | .bvs _ => .bvs
  | .adcIzy _ => .adc
  | .adcZpx _ => .adc
  | .rorZpx _ => .ror
  | .sei => .sei
  | .adcAby _ => .adc
  | .adcAbx _ => .adc
  | .rorAbx _ => .ror
  | .staIzx _ => .sta
  | .styZp _ => .sty
  | .staZp _ => .sta
  | .stxZp _ => .stx
  | .dey => .dey
  | .txa => .txa
  | .styAbs _ => .sty
  | .staAbs _ => .sta
  | .stxAbs _ => .stx
  | .bcc _ => .bcc
  | .staIzy _ => .sta
  | .styZpx _ => .sty
  | .staZpx _ => .sta
  | .stxZpy _ => .stx
  | .tya => .tya
  | .staAby _ => .sta
  | .txs => .txs
  | .staAbx _ => .sta
  | .ldyImm _ => .ldy
  | .ldaIzx _ => .lda
  | .ldxImm _ => .ldx
  | .ldyZp _ => .ldy
  | .ldaZp _ => .lda
  | .ldxZp _ => .ldx
  | .tay => .tay
  | .ldaImm _ => .lda
  | .tax => .tax
  | .ldyAbs _ => .ldy
  | .ldaAbs _ => .lda
  | .ldxAbs _ => .ldx
  | .bcs _ => .bcs
  | .ldaIzy _ => .lda
  | .ldyZpx _ => .ldy
  | .ldaZpx _ => .lda
  | .ldxZpy _ => .ldx
  | .clv => .clv
  | .ldaAby _ => .lda
  | .tsx => .tsx
  | .ldyAbx _ => .ldy
  | .ldaAbx _ => .lda
  | .ldxAby _ => .ldx
  | .cpyImm _ => .cpy
  | .cmpIzx _ => .cmp
  | .cpyZp _ => .cpy
  | .cmpZp _ => .cmp
  | .decZp _ => .dec
  | .iny => .iny
  | .cmpImm _ => .cmp
  | .dex => .dex
  | .cpyAbs _ => .cpy
  | .cmpAbs _ => .cmp
  | .decAbs _ => .dec
  | .bne _ => .bne
  | .cmpIzy _ => .cmp
  | .cmpZpx _ => .cmp
  | .decZpx _ => .dec
  | .cld => .cld
  | .cmpAby _ => .cmp
  | .cmpAbx _ => .cmp
  | .decAbx _ => .dec
  | .cpxImm _ => .cpx
  | .sbcIzx _ => .sbc
  | .cpxZp _ => .cpx
  | .sbcZp _ => .sbc
  | .incZp _ => .inc
  | .inx => .inx
  | .sbcImm _ => .sbc
  | .nop => .nop
  | .cpxAbs _ => .cpx
  | .sbcAbs _ => .sbc
  | .incAbs _ => .inc
  | .beq _ => .beq
  | .sbcIzy _ => .sbc
  | .sbcZpx _ => .sbc
  | .incZpx _ => .inc
  | .sed => .sed
  | .sbcAby _ => .sbc
  | .sbcAbx _ => .sbc
  | .incAbx _ => .inc

/-- The length in bytes that Table 30-1 gives a format. -/
def Format.length : Format → Nat
  | .imp => 1
  | .acc => 1
  | .imm => 2
  | .zp => 2
  | .zpx => 2
  | .zpy => 2
  | .abs => 3
  | .abx => 3
  | .aby => 3
  | .ind => 3
  | .izx => 2
  | .izy => 2
  | .rel => 2

/-- The format of an instruction: the cell of Table 30-2. -/
def Instr.format : Instr → Format
  | .brk => .imp
  | .oraIzx _ => .izx
  | .oraZp _ => .zp
  | .aslZp _ => .zp
  | .php => .imp
  | .oraImm _ => .imm
  | .aslAcc => .acc
  | .oraAbs _ => .abs
  | .aslAbs _ => .abs
  | .bpl _ => .rel
  | .oraIzy _ => .izy
  | .oraZpx _ => .zpx
  | .aslZpx _ => .zpx
  | .clc => .imp
  | .oraAby _ => .aby
  | .oraAbx _ => .abx
  | .aslAbx _ => .abx
  | .jsr _ => .abs
  | .andIzx _ => .izx
  | .bitZp _ => .zp
  | .andZp _ => .zp
  | .rolZp _ => .zp
  | .plp => .imp
  | .andImm _ => .imm
  | .rolAcc => .acc
  | .bitAbs _ => .abs
  | .andAbs _ => .abs
  | .rolAbs _ => .abs
  | .bmi _ => .rel
  | .andIzy _ => .izy
  | .andZpx _ => .zpx
  | .rolZpx _ => .zpx
  | .sec => .imp
  | .andAby _ => .aby
  | .andAbx _ => .abx
  | .rolAbx _ => .abx
  | .rti => .imp
  | .eorIzx _ => .izx
  | .eorZp _ => .zp
  | .lsrZp _ => .zp
  | .pha => .imp
  | .eorImm _ => .imm
  | .lsrAcc => .acc
  | .jmpAbs _ => .abs
  | .eorAbs _ => .abs
  | .lsrAbs _ => .abs
  | .bvc _ => .rel
  | .eorIzy _ => .izy
  | .eorZpx _ => .zpx
  | .lsrZpx _ => .zpx
  | .cli => .imp
  | .eorAby _ => .aby
  | .eorAbx _ => .abx
  | .lsrAbx _ => .abx
  | .rts => .imp
  | .adcIzx _ => .izx
  | .adcZp _ => .zp
  | .rorZp _ => .zp
  | .pla => .imp
  | .adcImm _ => .imm
  | .rorAcc => .acc
  | .jmpInd _ => .ind
  | .adcAbs _ => .abs
  | .rorAbs _ => .abs
  | .bvs _ => .rel
  | .adcIzy _ => .izy
  | .adcZpx _ => .zpx
  | .rorZpx _ => .zpx
  | .sei => .imp
  | .adcAby _ => .aby
  | .adcAbx _ => .abx
  | .rorAbx _ => .abx
  | .staIzx _ => .izx
  | .styZp _ => .zp
  | .staZp _ => .zp
  | .stxZp _ => .zp
  | .dey => .imp
  | .txa => .imp
  | .styAbs _ => .abs
  | .staAbs _ => .abs
  | .stxAbs _ => .abs
  | .bcc _ => .rel
  | .staIzy _ => .izy
  | .styZpx _ => .zpx
  | .staZpx _ => .zpx
  | .stxZpy _ => .zpy
  | .tya => .imp
  | .staAby _ => .aby
  | .txs => .imp
  | .staAbx _ => .abx
  | .ldyImm _ => .imm
  | .ldaIzx _ => .izx
  | .ldxImm _ => .imm
  | .ldyZp _ => .zp
  | .ldaZp _ => .zp
  | .ldxZp _ => .zp
  | .tay => .imp
  | .ldaImm _ => .imm
  | .tax => .imp
  | .ldyAbs _ => .abs
  | .ldaAbs _ => .abs
  | .ldxAbs _ => .abs
  | .bcs _ => .rel
  | .ldaIzy _ => .izy
  | .ldyZpx _ => .zpx
  | .ldaZpx _ => .zpx
  | .ldxZpy _ => .zpy
  | .clv => .imp
  | .ldaAby _ => .aby
  | .tsx => .imp
  | .ldyAbx _ => .abx
  | .ldaAbx _ => .abx
  | .ldxAby _ => .aby
  | .cpyImm _ => .imm
  | .cmpIzx _ => .izx
  | .cpyZp _ => .zp
  | .cmpZp _ => .zp
  | .decZp _ => .zp
  | .iny => .imp
  | .cmpImm _ => .imm
  | .dex => .imp
  | .cpyAbs _ => .abs
  | .cmpAbs _ => .abs
  | .decAbs _ => .abs
  | .bne _ => .rel
  | .cmpIzy _ => .izy
  | .cmpZpx _ => .zpx
  | .decZpx _ => .zpx
  | .cld => .imp
  | .cmpAby _ => .aby
  | .cmpAbx _ => .abx
  | .decAbx _ => .abx
  | .cpxImm _ => .imm
  | .sbcIzx _ => .izx
  | .cpxZp _ => .zp
  | .sbcZp _ => .zp
  | .incZp _ => .zp
  | .inx => .imp
  | .sbcImm _ => .imm
  | .nop => .imp
  | .cpxAbs _ => .abs
  | .sbcAbs _ => .abs
  | .incAbs _ => .abs
  | .beq _ => .rel
  | .sbcIzy _ => .izy
  | .sbcZpx _ => .zpx
  | .incZpx _ => .zpx
  | .sed => .imp
  | .sbcAby _ => .aby
  | .sbcAbx _ => .abx
  | .incAbx _ => .abx

end Sys2Proof
end

