-- ==== Sys2Proof/WellFormed.lean ====
section
/-! DEFINITION. The checks. An instruction carries as many operand bytes as Table 30-1 gives its format; no operand
value is ill formed, because "Operand bytes are never illegal" (R117). A platform has a positive wrap threshold (R10),
and timer windows that lie where R82 says and do not overlap. -/

namespace Sys2Proof

/-- How many operand bytes an instruction's argument stands for. -/
def Instr.operandLength : Instr → Nat
  | .brk => 0
  | .oraIzx _ => 1
  | .oraZp _ => 1
  | .aslZp _ => 1
  | .php => 0
  | .oraImm _ => 1
  | .aslAcc => 0
  | .oraAbs _ => 2
  | .aslAbs _ => 2
  | .bpl _ => 1
  | .oraIzy _ => 1
  | .oraZpx _ => 1
  | .aslZpx _ => 1
  | .clc => 0
  | .oraAby _ => 2
  | .oraAbx _ => 2
  | .aslAbx _ => 2
  | .jsr _ => 2
  | .andIzx _ => 1
  | .bitZp _ => 1
  | .andZp _ => 1
  | .rolZp _ => 1
  | .plp => 0
  | .andImm _ => 1
  | .rolAcc => 0
  | .bitAbs _ => 2
  | .andAbs _ => 2
  | .rolAbs _ => 2
  | .bmi _ => 1
  | .andIzy _ => 1
  | .andZpx _ => 1
  | .rolZpx _ => 1
  | .sec => 0
  | .andAby _ => 2
  | .andAbx _ => 2
  | .rolAbx _ => 2
  | .rti => 0
  | .eorIzx _ => 1
  | .eorZp _ => 1
  | .lsrZp _ => 1
  | .pha => 0
  | .eorImm _ => 1
  | .lsrAcc => 0
  | .jmpAbs _ => 2
  | .eorAbs _ => 2
  | .lsrAbs _ => 2
  | .bvc _ => 1
  | .eorIzy _ => 1
  | .eorZpx _ => 1
  | .lsrZpx _ => 1
  | .cli => 0
  | .eorAby _ => 2
  | .eorAbx _ => 2
  | .lsrAbx _ => 2
  | .rts => 0
  | .adcIzx _ => 1
  | .adcZp _ => 1
  | .rorZp _ => 1
  | .pla => 0
  | .adcImm _ => 1
  | .rorAcc => 0
  | .jmpInd _ => 2
  | .adcAbs _ => 2
  | .rorAbs _ => 2
  | .bvs _ => 1
  | .adcIzy _ => 1
  | .adcZpx _ => 1
  | .rorZpx _ => 1
  | .sei => 0
  | .adcAby _ => 2
  | .adcAbx _ => 2
  | .rorAbx _ => 2
  | .staIzx _ => 1
  | .styZp _ => 1
  | .staZp _ => 1
  | .stxZp _ => 1
  | .dey => 0
  | .txa => 0
  | .styAbs _ => 2
  | .staAbs _ => 2
  | .stxAbs _ => 2
  | .bcc _ => 1
  | .staIzy _ => 1
  | .styZpx _ => 1
  | .staZpx _ => 1
  | .stxZpy _ => 1
  | .tya => 0
  | .staAby _ => 2
  | .txs => 0
  | .staAbx _ => 2
  | .ldyImm _ => 1
  | .ldaIzx _ => 1
  | .ldxImm _ => 1
  | .ldyZp _ => 1
  | .ldaZp _ => 1
  | .ldxZp _ => 1
  | .tay => 0
  | .ldaImm _ => 1
  | .tax => 0
  | .ldyAbs _ => 2
  | .ldaAbs _ => 2
  | .ldxAbs _ => 2
  | .bcs _ => 1
  | .ldaIzy _ => 1
  | .ldyZpx _ => 1
  | .ldaZpx _ => 1
  | .ldxZpy _ => 1
  | .clv => 0
  | .ldaAby _ => 2
  | .tsx => 0
  | .ldyAbx _ => 2
  | .ldaAbx _ => 2
  | .ldxAby _ => 2
  | .cpyImm _ => 1
  | .cmpIzx _ => 1
  | .cpyZp _ => 1
  | .cmpZp _ => 1
  | .decZp _ => 1
  | .iny => 0
  | .cmpImm _ => 1
  | .dex => 0
  | .cpyAbs _ => 2
  | .cmpAbs _ => 2
  | .decAbs _ => 2
  | .bne _ => 1
  | .cmpIzy _ => 1
  | .cmpZpx _ => 1
  | .decZpx _ => 1
  | .cld => 0
  | .cmpAby _ => 2
  | .cmpAbx _ => 2
  | .decAbx _ => 2
  | .cpxImm _ => 1
  | .sbcIzx _ => 1
  | .cpxZp _ => 1
  | .sbcZp _ => 1
  | .incZp _ => 1
  | .inx => 0
  | .sbcImm _ => 1
  | .nop => 0
  | .cpxAbs _ => 2
  | .sbcAbs _ => 2
  | .incAbs _ => 2
  | .beq _ => 1
  | .sbcIzy _ => 1
  | .sbcZpx _ => 1
  | .incZpx _ => 1
  | .sed => 0
  | .sbcAby _ => 2
  | .sbcAbx _ => 2
  | .incAbx _ => 2

/-- An instruction is well formed when its operand fills the bytes its format has after the opcode (R110, R111). -/
def Instr.wellFormed (i : Instr) : Bool := i.operandLength + 1 == i.format.length

/-- R10: `CYCLE_WRAP` is "a positive integer". -/
def Platform.wrapPositive (p : Platform) : Bool := decide (0 < p.cycleWrap)

/-- R82: a window "must lie inside 0x0000–0xFFF0": no window starts above 0xFFF0. -/
def windowInside : Option Address → Bool
  | none => true
  | some b => decide (b.toNat ≤ 0xFFF0)

/-- R82: "The two windows must not overlap", each being 16 bytes long. -/
def windowsApart : Option Address → Option Address → Bool
  | some b, some c => decide (b.toNat + 15 < c.toNat ∨ c.toNat + 15 < b.toNat)
  | some _, none => true
  | none, _ => true

/-- What R10 and R82 ask of a platform. -/
def Platform.wellFormed (p : Platform) : Bool :=
  p.wrapPositive && windowInside p.timerBase0 && windowInside p.timerBase1 && windowsApart p.timerBase0 p.timerBase1

end Sys2Proof
end

