-- ==== Sys2Proof/Decode.lean ====
section
/-! DEFINITION. The decoder and the encoder, both written from Table 30-2 and opcode_table.json (R110 to R117, R207).
The decoder is total on every list of bytes; it rejects by name an opcode with no row, and a list that ends inside an
instruction. -/

namespace Sys2Proof

/-- What follows an opcode byte (R110, R112): nothing, one operand byte, or a 16-bit operand, low byte first. -/
inductive Shape where
  | none (i : Instr)
  | one (k : Byte → Instr)
  | two (k : Address → Instr)

/-- One row of the opcode map: the opcode byte, which alone selects the instruction (R113: every row's mask is 0xFF),
and the instruction it selects. -/
structure OpRow where
  opcode : Byte
  shape  : Shape

/-- The row 0x of Table 30-2. -/
def opRows0 : List OpRow := [
  ⟨0x00, .none .brk⟩,
  ⟨0x01, .one .oraIzx⟩,
  ⟨0x05, .one .oraZp⟩,
  ⟨0x06, .one .aslZp⟩,
  ⟨0x08, .none .php⟩,
  ⟨0x09, .one .oraImm⟩,
  ⟨0x0A, .none .aslAcc⟩,
  ⟨0x0D, .two .oraAbs⟩,
  ⟨0x0E, .two .aslAbs⟩]

/-- The row 1x of Table 30-2. -/
def opRows1 : List OpRow := [
  ⟨0x10, .one .bpl⟩,
  ⟨0x11, .one .oraIzy⟩,
  ⟨0x15, .one .oraZpx⟩,
  ⟨0x16, .one .aslZpx⟩,
  ⟨0x18, .none .clc⟩,
  ⟨0x19, .two .oraAby⟩,
  ⟨0x1D, .two .oraAbx⟩,
  ⟨0x1E, .two .aslAbx⟩]

/-- The row 2x of Table 30-2. -/
def opRows2 : List OpRow := [
  ⟨0x20, .two .jsr⟩,
  ⟨0x21, .one .andIzx⟩,
  ⟨0x24, .one .bitZp⟩,
  ⟨0x25, .one .andZp⟩,
  ⟨0x26, .one .rolZp⟩,
  ⟨0x28, .none .plp⟩,
  ⟨0x29, .one .andImm⟩,
  ⟨0x2A, .none .rolAcc⟩,
  ⟨0x2C, .two .bitAbs⟩,
  ⟨0x2D, .two .andAbs⟩,
  ⟨0x2E, .two .rolAbs⟩]

/-- The row 3x of Table 30-2. -/
def opRows3 : List OpRow := [
  ⟨0x30, .one .bmi⟩,
  ⟨0x31, .one .andIzy⟩,
  ⟨0x35, .one .andZpx⟩,
  ⟨0x36, .one .rolZpx⟩,
  ⟨0x38, .none .sec⟩,
  ⟨0x39, .two .andAby⟩,
  ⟨0x3D, .two .andAbx⟩,
  ⟨0x3E, .two .rolAbx⟩]

/-- The row 4x of Table 30-2. -/
def opRows4 : List OpRow := [
  ⟨0x40, .none .rti⟩,
  ⟨0x41, .one .eorIzx⟩,
  ⟨0x45, .one .eorZp⟩,
  ⟨0x46, .one .lsrZp⟩,
  ⟨0x48, .none .pha⟩,
  ⟨0x49, .one .eorImm⟩,
  ⟨0x4A, .none .lsrAcc⟩,
  ⟨0x4C, .two .jmpAbs⟩,
  ⟨0x4D, .two .eorAbs⟩,
  ⟨0x4E, .two .lsrAbs⟩]

/-- The row 5x of Table 30-2. -/
def opRows5 : List OpRow := [
  ⟨0x50, .one .bvc⟩,
  ⟨0x51, .one .eorIzy⟩,
  ⟨0x55, .one .eorZpx⟩,
  ⟨0x56, .one .lsrZpx⟩,
  ⟨0x58, .none .cli⟩,
  ⟨0x59, .two .eorAby⟩,
  ⟨0x5D, .two .eorAbx⟩,
  ⟨0x5E, .two .lsrAbx⟩]

/-- The row 6x of Table 30-2. -/
def opRows6 : List OpRow := [
  ⟨0x60, .none .rts⟩,
  ⟨0x61, .one .adcIzx⟩,
  ⟨0x65, .one .adcZp⟩,
  ⟨0x66, .one .rorZp⟩,
  ⟨0x68, .none .pla⟩,
  ⟨0x69, .one .adcImm⟩,
  ⟨0x6A, .none .rorAcc⟩,
  ⟨0x6C, .two .jmpInd⟩,
  ⟨0x6D, .two .adcAbs⟩,
  ⟨0x6E, .two .rorAbs⟩]

/-- The row 7x of Table 30-2. -/
def opRows7 : List OpRow := [
  ⟨0x70, .one .bvs⟩,
  ⟨0x71, .one .adcIzy⟩,
  ⟨0x75, .one .adcZpx⟩,
  ⟨0x76, .one .rorZpx⟩,
  ⟨0x78, .none .sei⟩,
  ⟨0x79, .two .adcAby⟩,
  ⟨0x7D, .two .adcAbx⟩,
  ⟨0x7E, .two .rorAbx⟩]

/-- The row 8x of Table 30-2. -/
def opRows8 : List OpRow := [
  ⟨0x81, .one .staIzx⟩,
  ⟨0x84, .one .styZp⟩,
  ⟨0x85, .one .staZp⟩,
  ⟨0x86, .one .stxZp⟩,
  ⟨0x88, .none .dey⟩,
  ⟨0x8A, .none .txa⟩,
  ⟨0x8C, .two .styAbs⟩,
  ⟨0x8D, .two .staAbs⟩,
  ⟨0x8E, .two .stxAbs⟩]

/-- The row 9x of Table 30-2. -/
def opRows9 : List OpRow := [
  ⟨0x90, .one .bcc⟩,
  ⟨0x91, .one .staIzy⟩,
  ⟨0x94, .one .styZpx⟩,
  ⟨0x95, .one .staZpx⟩,
  ⟨0x96, .one .stxZpy⟩,
  ⟨0x98, .none .tya⟩,
  ⟨0x99, .two .staAby⟩,
  ⟨0x9A, .none .txs⟩,
  ⟨0x9D, .two .staAbx⟩]

/-- The row Ax of Table 30-2. -/
def opRowsA : List OpRow := [
  ⟨0xA0, .one .ldyImm⟩,
  ⟨0xA1, .one .ldaIzx⟩,
  ⟨0xA2, .one .ldxImm⟩,
  ⟨0xA4, .one .ldyZp⟩,
  ⟨0xA5, .one .ldaZp⟩,
  ⟨0xA6, .one .ldxZp⟩,
  ⟨0xA8, .none .tay⟩,
  ⟨0xA9, .one .ldaImm⟩,
  ⟨0xAA, .none .tax⟩,
  ⟨0xAC, .two .ldyAbs⟩,
  ⟨0xAD, .two .ldaAbs⟩,
  ⟨0xAE, .two .ldxAbs⟩]

/-- The row Bx of Table 30-2. -/
def opRowsB : List OpRow := [
  ⟨0xB0, .one .bcs⟩,
  ⟨0xB1, .one .ldaIzy⟩,
  ⟨0xB4, .one .ldyZpx⟩,
  ⟨0xB5, .one .ldaZpx⟩,
  ⟨0xB6, .one .ldxZpy⟩,
  ⟨0xB8, .none .clv⟩,
  ⟨0xB9, .two .ldaAby⟩,
  ⟨0xBA, .none .tsx⟩,
  ⟨0xBC, .two .ldyAbx⟩,
  ⟨0xBD, .two .ldaAbx⟩,
  ⟨0xBE, .two .ldxAby⟩]

/-- The row Cx of Table 30-2. -/
def opRowsC : List OpRow := [
  ⟨0xC0, .one .cpyImm⟩,
  ⟨0xC1, .one .cmpIzx⟩,
  ⟨0xC4, .one .cpyZp⟩,
  ⟨0xC5, .one .cmpZp⟩,
  ⟨0xC6, .one .decZp⟩,
  ⟨0xC8, .none .iny⟩,
  ⟨0xC9, .one .cmpImm⟩,
  ⟨0xCA, .none .dex⟩,
  ⟨0xCC, .two .cpyAbs⟩,
  ⟨0xCD, .two .cmpAbs⟩,
  ⟨0xCE, .two .decAbs⟩]

/-- The row Dx of Table 30-2. -/
def opRowsD : List OpRow := [
  ⟨0xD0, .one .bne⟩,
  ⟨0xD1, .one .cmpIzy⟩,
  ⟨0xD5, .one .cmpZpx⟩,
  ⟨0xD6, .one .decZpx⟩,
  ⟨0xD8, .none .cld⟩,
  ⟨0xD9, .two .cmpAby⟩,
  ⟨0xDD, .two .cmpAbx⟩,
  ⟨0xDE, .two .decAbx⟩]

/-- The row Ex of Table 30-2. -/
def opRowsE : List OpRow := [
  ⟨0xE0, .one .cpxImm⟩,
  ⟨0xE1, .one .sbcIzx⟩,
  ⟨0xE4, .one .cpxZp⟩,
  ⟨0xE5, .one .sbcZp⟩,
  ⟨0xE6, .one .incZp⟩,
  ⟨0xE8, .none .inx⟩,
  ⟨0xE9, .one .sbcImm⟩,
  ⟨0xEA, .none .nop⟩,
  ⟨0xEC, .two .cpxAbs⟩,
  ⟨0xED, .two .sbcAbs⟩,
  ⟨0xEE, .two .incAbs⟩]

/-- The row Fx of Table 30-2. -/
def opRowsF : List OpRow := [
  ⟨0xF0, .one .beq⟩,
  ⟨0xF1, .one .sbcIzy⟩,
  ⟨0xF5, .one .sbcZpx⟩,
  ⟨0xF6, .one .incZpx⟩,
  ⟨0xF8, .none .sed⟩,
  ⟨0xF9, .two .sbcAby⟩,
  ⟨0xFD, .two .sbcAbx⟩,
  ⟨0xFE, .two .incAbx⟩]

/-- R207: the decode table, one row for each of the 151 documented opcodes. -/
def opTable : List OpRow :=
  opRows0 ++ opRows1 ++ opRows2 ++ opRows3 ++ opRows4 ++ opRows5 ++ opRows6 ++ opRows7 ++
  opRows8 ++ opRows9 ++ opRowsA ++ opRowsB ++ opRowsC ++ opRowsD ++ opRowsE ++ opRowsF

/-- The first row of a list that has the opcode. -/
def findShape (op : Byte) : List OpRow → Option Shape
  | [] => .none
  | r :: rest => if r.opcode = op then some r.shape else findShape op rest

/-- R207: `DECODE`, from the opcode byte alone; none for the 105 opcodes of R116. -/
def shapeOf (op : Byte) : Option Shape := findShape op opTable

/-- What the decoder answers: an instruction and the bytes after it, or the reason there is none. -/
inductive Decoded where
  /-- The bytes begin with this instruction. -/
  | ok (i : Instr) (rest : List Byte)
  /-- R116: the first byte is one of the 105 opcodes with no instruction. -/
  | illegalOpcode (op : Byte)
  /-- The bytes end before the instruction does (R110). -/
  | truncated
deriving DecidableEq, Repr

/-- R110 to R112: the instruction that a list of bytes begins with. -/
def decode : List Byte → Decoded
  | [] => .truncated
  | op :: rest =>
    match shapeOf op with
    | .none => .illegalOpcode op
    | some (.none i) => .ok i rest
    | some (.one k) =>
      match rest with
      | b1 :: rest' => .ok (k b1) rest'
      | [] => .truncated
    | some (.two k) =>
      match rest with
      | b1 :: b2 :: rest' => .ok (k (pair b2 b1)) rest'
      | _ => .truncated

/-- The bytes of an instruction whose bits are `w`, numbered from the least significant bit of the first byte, with
every bit from `nbits` on zero, laid out as memory holds them; three bytes, the length of the longest instruction. -/
def tableBytes (nbits w : Nat) : List Byte :=
  [BitVec.ofNat 8 (w % 2 ^ nbits), BitVec.ofNat 8 (w % 2 ^ nbits / 256), BitVec.ofNat 8 (w % 2 ^ nbits / 65536)]

/-- The instruction an answer of the decoder holds. -/
def decodedInstr : Decoded → Option Instr
  | .ok i _ => some i
  | .illegalOpcode _ => .none
  | .truncated => .none

/-- The instruction the decoder reads from a row of opcode_table.json. -/
def decodeTableWord (nbits w : Nat) : Option Instr := decodedInstr (decode (tableBytes nbits w))

/-- The bytes of a 16-bit operand in the instruction stream, low byte first (R111). -/
def wordBytes (w : Address) : List Byte := [lo w, hi w]

/-- R110, R111: the bytes of an instruction, from the opcodes of Table 30-2. -/
def encode : Instr → List Byte
  | .brk => [0x00]
  | .oraIzx b => [0x01, b]
  | .oraZp b => [0x05, b]
  | .aslZp b => [0x06, b]
  | .php => [0x08]
  | .oraImm b => [0x09, b]
  | .aslAcc => [0x0A]
  | .oraAbs w => 0x0D :: wordBytes w
  | .aslAbs w => 0x0E :: wordBytes w
  | .bpl d => [0x10, d]
  | .oraIzy b => [0x11, b]
  | .oraZpx b => [0x15, b]
  | .aslZpx b => [0x16, b]
  | .clc => [0x18]
  | .oraAby w => 0x19 :: wordBytes w
  | .oraAbx w => 0x1D :: wordBytes w
  | .aslAbx w => 0x1E :: wordBytes w
  | .jsr w => 0x20 :: wordBytes w
  | .andIzx b => [0x21, b]
  | .bitZp b => [0x24, b]
  | .andZp b => [0x25, b]
  | .rolZp b => [0x26, b]
  | .plp => [0x28]
  | .andImm b => [0x29, b]
  | .rolAcc => [0x2A]
  | .bitAbs w => 0x2C :: wordBytes w
  | .andAbs w => 0x2D :: wordBytes w
  | .rolAbs w => 0x2E :: wordBytes w
  | .bmi d => [0x30, d]
  | .andIzy b => [0x31, b]
  | .andZpx b => [0x35, b]
  | .rolZpx b => [0x36, b]
  | .sec => [0x38]
  | .andAby w => 0x39 :: wordBytes w
  | .andAbx w => 0x3D :: wordBytes w
  | .rolAbx w => 0x3E :: wordBytes w
  | .rti => [0x40]
  | .eorIzx b => [0x41, b]
  | .eorZp b => [0x45, b]
  | .lsrZp b => [0x46, b]
  | .pha => [0x48]
  | .eorImm b => [0x49, b]
  | .lsrAcc => [0x4A]
  | .jmpAbs w => 0x4C :: wordBytes w
  | .eorAbs w => 0x4D :: wordBytes w
  | .lsrAbs w => 0x4E :: wordBytes w
  | .bvc d => [0x50, d]
  | .eorIzy b => [0x51, b]
  | .eorZpx b => [0x55, b]
  | .lsrZpx b => [0x56, b]
  | .cli => [0x58]
  | .eorAby w => 0x59 :: wordBytes w
  | .eorAbx w => 0x5D :: wordBytes w
  | .lsrAbx w => 0x5E :: wordBytes w
  | .rts => [0x60]
  | .adcIzx b => [0x61, b]
  | .adcZp b => [0x65, b]
  | .rorZp b => [0x66, b]
  | .pla => [0x68]
  | .adcImm b => [0x69, b]
  | .rorAcc => [0x6A]
  | .jmpInd w => 0x6C :: wordBytes w
  | .adcAbs w => 0x6D :: wordBytes w
  | .rorAbs w => 0x6E :: wordBytes w
  | .bvs d => [0x70, d]
  | .adcIzy b => [0x71, b]
  | .adcZpx b => [0x75, b]
  | .rorZpx b => [0x76, b]
  | .sei => [0x78]
  | .adcAby w => 0x79 :: wordBytes w
  | .adcAbx w => 0x7D :: wordBytes w
  | .rorAbx w => 0x7E :: wordBytes w
  | .staIzx b => [0x81, b]
  | .styZp b => [0x84, b]
  | .staZp b => [0x85, b]
  | .stxZp b => [0x86, b]
  | .dey => [0x88]
  | .txa => [0x8A]
  | .styAbs w => 0x8C :: wordBytes w
  | .staAbs w => 0x8D :: wordBytes w
  | .stxAbs w => 0x8E :: wordBytes w
  | .bcc d => [0x90, d]
  | .staIzy b => [0x91, b]
  | .styZpx b => [0x94, b]
  | .staZpx b => [0x95, b]
  | .stxZpy b => [0x96, b]
  | .tya => [0x98]
  | .staAby w => 0x99 :: wordBytes w
  | .txs => [0x9A]
  | .staAbx w => 0x9D :: wordBytes w
  | .ldyImm b => [0xA0, b]
  | .ldaIzx b => [0xA1, b]
  | .ldxImm b => [0xA2, b]
  | .ldyZp b => [0xA4, b]
  | .ldaZp b => [0xA5, b]
  | .ldxZp b => [0xA6, b]
  | .tay => [0xA8]
  | .ldaImm b => [0xA9, b]
  | .tax => [0xAA]
  | .ldyAbs w => 0xAC :: wordBytes w
  | .ldaAbs w => 0xAD :: wordBytes w
  | .ldxAbs w => 0xAE :: wordBytes w
  | .bcs d => [0xB0, d]
  | .ldaIzy b => [0xB1, b]
  | .ldyZpx b => [0xB4, b]
  | .ldaZpx b => [0xB5, b]
  | .ldxZpy b => [0xB6, b]
  | .clv => [0xB8]
  | .ldaAby w => 0xB9 :: wordBytes w
  | .tsx => [0xBA]
  | .ldyAbx w => 0xBC :: wordBytes w
  | .ldaAbx w => 0xBD :: wordBytes w
  | .ldxAby w => 0xBE :: wordBytes w
  | .cpyImm b => [0xC0, b]
  | .cmpIzx b => [0xC1, b]
  | .cpyZp b => [0xC4, b]
  | .cmpZp b => [0xC5, b]
  | .decZp b => [0xC6, b]
  | .iny => [0xC8]
  | .cmpImm b => [0xC9, b]
  | .dex => [0xCA]
  | .cpyAbs w => 0xCC :: wordBytes w
  | .cmpAbs w => 0xCD :: wordBytes w
  | .decAbs w => 0xCE :: wordBytes w
  | .bne d => [0xD0, d]
  | .cmpIzy b => [0xD1, b]
  | .cmpZpx b => [0xD5, b]
  | .decZpx b => [0xD6, b]
  | .cld => [0xD8]
  | .cmpAby w => 0xD9 :: wordBytes w
  | .cmpAbx w => 0xDD :: wordBytes w
  | .decAbx w => 0xDE :: wordBytes w
  | .cpxImm b => [0xE0, b]
  | .sbcIzx b => [0xE1, b]
  | .cpxZp b => [0xE4, b]
  | .sbcZp b => [0xE5, b]
  | .incZp b => [0xE6, b]
  | .inx => [0xE8]
  | .sbcImm b => [0xE9, b]
  | .nop => [0xEA]
  | .cpxAbs w => 0xEC :: wordBytes w
  | .sbcAbs w => 0xED :: wordBytes w
  | .incAbs w => 0xEE :: wordBytes w
  | .beq d => [0xF0, d]
  | .sbcIzy b => [0xF1, b]
  | .sbcZpx b => [0xF5, b]
  | .incZpx b => [0xF6, b]
  | .sed => [0xF8]
  | .sbcAby w => 0xF9 :: wordBytes w
  | .sbcAbx w => 0xFD :: wordBytes w
  | .incAbx w => 0xFE :: wordBytes w

end Sys2Proof
end

