-- ==== Sys2Proof/Machine/Fetch.lean ====
section
/-! DEFINITION. The start of `executeOne` (R182 to R185): the transients cleared, the opcode and operand bytes fetched
through the bus, and the instruction they are. Also the placing of an instruction's bytes in memory. -/

namespace Sys2Proof.Machine

/-- R183: what is set to 0 at the start of each `executeOne`. -/
def beginInstr (s : State) : State :=
  { s with
    sched := { s.sched with instr := 0, io := 0, branch := 0, entry := 0, inEntry := false }
    irq := { s.irq with justSet := false, justCleared := false } }

/-- R182, R112: the operand bytes, each by `Fetch()`, and the instruction with its operand. -/
def fetchOperands (sh : Shape) (s : State) : Yield Instr :=
  match sh with
  | .none i => .next (i, s)
  | .one k => andThen (fetch s) fun r => .next (k r.1, r.2)
  | .two k => andThen (fetch s) fun l => andThen (fetch l.2) fun h => .next (k (pair h.1 l.1), h.2)

/-- R401: an opcode with no instruction raises `UnimplementedOpcode`, before any operand byte is fetched. -/
def decodeFetched (op : Byte) (s : State) : Yield Instr :=
  match shapeOf op with
  | none => raise (.unimplementedOpcode op (s.regs.pc - 1)) s
  | some sh => fetchOperands sh s

/-- R182: the fetch and decode of one instruction. -/
def fetchInstr (s : State) : Yield Instr := andThen (fetch s) fun r => decodeFetched r.1 r.2

/-- The memory with bytes placed at an address and the addresses after it, modulo 65536. -/
def placeBytes (m : List Host.Cell) (a : Address) : List Byte → List Host.Cell
  | [] => m
  | v :: rest => placeBytes (writeByte m a.toNat v) (a + 1) rest

/-- Whether the bus takes an address to plain memory. -/
def isMemory (p : Platform) (a : Address) : Bool := decide (route p a = .memory)

/-- A platform on which the three addresses from `a` on are plain memory: the one given, or, where a timer window or a
device covers one of them, the one given without its windows and devices (log 12). -/
def fetchablePlatform (p : Platform) (a : Address) : Platform :=
  if isMemory p a && isMemory p (a + 1) && isMemory p (a + 2) then p
  else { p with timerBase0 := none, timerBase1 := none, devices := [] }

end Sys2Proof.Machine
end

