-- ==== Sys2Proof/Machine/Interrupt.lean ====
section
/-! DEFINITION. What follows an instruction (R182): the total-cycle counter, and the boundary check with the service
condition and interrupt entry (R412 to R415). -/

namespace Sys2Proof.Machine

/-- R415: the claim is consumed, and the entry's own accumulator starts. -/
def beginEntry (s : State) : State :=
  { s with
    sched := { s.sched with entry := 0, inEntry := true }
    irq := { s.irq with due := false, countdown := none } }

/-- R415: the end of an entry: its cycles are added to `TotalCycles`. -/
def endEntry (s : State) : State :=
  let t := addTotal s.sched.entry s
  { t with sched := { t.sched with inEntry := false } }

/-- R415: `IrqEntry()`; the status is pushed with bit 4 as 0. -/
def irqEntry (s : State) : Result :=
  andThen (takeException s.regs.pc false (beginEntry s)) fun t => .next (endEntry (advance irqEntryCycles t))

/-- R414: whether the countdown has reached the threshold of this instruction. -/
def countdownReached (io : Nat) : Option Int → Bool
  | some k => decide (k ≤ serviceThreshold - (io : Int))
  | none => false

/-- R414: `ServiceCondition()`. -/
def serviceCondition (s : State) : Bool :=
  s.irq.due && (!s.regs.p.i || s.irq.justSet) && countdownReached s.sched.io s.irq.countdown && !s.irq.justCleared

/-- R412: no source requests service, so a pending request is dropped. -/
def dropRequest (s : State) : State := { s with irq := { s.irq with due := false, countdown := none } }

/-- R412: marking the request due; a countdown that is `IDLE` is set to 0. -/
def markDue (s : State) : State :=
  if s.irq.due then s
  else { s with irq := { s.irq with due := true, countdown := some (s.irq.countdown.getD 0) } }

/-- R412: `InterruptBoundary()`. -/
def interruptBoundary (s : State) : Result :=
  if s.irq.status = 0 then .next (dropRequest s)
  else if serviceCondition (markDue s) then irqEntry (markDue s)
  else .next (markDue s)

/-- R404: a call that the environment has faulted ends with that error (log 5). -/
def settle (s : State) : Result :=
  match s.fault with
  | some e => .fault e
  | none => .next s

/-- R182: the end of `executeOne`, after the instruction's own work: `TotalCycles`, the wrap check, the boundary. -/
def complete (s : State) : Result := andThen (interruptBoundary (addTotal s.sched.instr s)) settle

end Sys2Proof.Machine
end

