-- ==== Sys2Proof/Machine/Step.lean ====
section
/-! DEFINITION. The step: one `executeOne` (R182). -/

namespace Sys2Proof.Machine

/-- R182: a faulted block answers its fault (R181); otherwise one instruction is fetched, decoded and executed, and the
boundary check follows. -/
def step (s : State) : Host.Outcome State Fault Refusal :=
  match s.fault with
  | some e => .fault e
  | none => andThen (fetchInstr (beginInstr s)) fun r => andThen (exec r.1 r.2) complete

/-- The state in which the next step fetches and runs the instruction of an opcode-table row (log 12). -/
def State.withFetchWord (s : State) (nbits w : Nat) : State :=
  { s with
    mem := placeBytes s.mem s.regs.pc (tableBytes nbits w)
    fault := none
    platform := fetchablePlatform s.platform s.regs.pc }

end Sys2Proof.Machine
end

