-- ==== Sys2Proof/Machine/Ports.lean ====
section
/-! DEFINITION. The interfaces the host calls between instructions (R180, R404): `reset()`, `executeOne()`, the direct
calls of the timers' register interface (R497), and the environment's own changes between instructions (R491). The
interrupt port, the trigger primitives and `totalCycles()` stand in Sys2Proof/Machine/Env.lean. -/

namespace Sys2Proof.Machine

/-- R510: every register, counter, request and timer reinitialised; `IntStatus` bits 2 to 7, memory, platform and
environment kept. -/
def resetFields (s : State) : State :=
  { s with
    regs := { a := resetA, x := resetX, y := resetY, sp := resetS, pc := s.regs.pc, p := flagsAfterReset }
    sched := { total := 0, instr := 0, io := 0, branch := 0, entry := 0, inEntry := false }
    irq := { status := s.irq.status, countdown := none, due := false, justSet := false, justCleared := false }
    via0 := viaAfterReset
    via1 := viaAfterReset
    fault := none }

/-- R499: the lines after the timers are reset. -/
def resetLines (s : State) : State := lineUpdate .t1 (lineUpdate .t0 (resetFields s))

/-- R510, R511: `reset()`. The two vector reads are routed like any bus read, and charge no wait (D49). -/
def resetPort (s : State) : Result :=
  andThen (busRead resetVector (resetLines s)) fun l =>
  andThen (busRead (resetVector + 1) l.2) fun h => .next (h.2.setPc (pair h.1 l.1))

/-- R182: the cycles `executeOne` returns, those of the instruction and of the interrupt entry after it. -/
def chargedCycles (s : State) : Nat := s.sched.instr + s.sched.entry

/-- R180, R404: `executeOne()`. `left` is what a partial instruction that raises leaves behind, of which the spec says
nothing but the fault (U3): it is any state. No step refuses, so the last arm is never met. -/
def executeOne (left : State) (s : State) : Call Nat :=
  guarded s
    (match step s with
    | .next t => ⟨.ok (chargedCycles t), t⟩
    | .fault e => callErr e left
    | .refused _ => ⟨.ok 0, s⟩)

/-- R497: the peripheral a number names. -/
def timerOfNumber : Nat → Option TimerId
  | 0 => some .t0
  | 1 => some .t1
  | _ => none

/-- R404: the answer of an access of the register interface, as a call. No access refuses, so the last arm is never
met. -/
def callOf {α : Type} (s : State) (o : Yield α) : Call α :=
  match o with
  | .next r => ⟨.ok r.1, r.2⟩
  | .fault e => callErr e s
  | .refused _ => callErr (s.fault.getD (.contractTimerOffset 0 0)) s

/-- R461, R497: a direct call of `TimerRead`. -/
def timerReadCall (inst off : Nat) (s : State) : Call Byte :=
  guarded s
    (match timerOfNumber inst with
    | some i => callOf s (timerRead i off s)
    | none => callErr (.contractTimerOffset inst off) s)

/-- R465, R497: a direct call of `TimerWrite`. -/
def timerWriteCall (inst off : Nat) (v : Byte) (s : State) : Call Unit :=
  guarded s
    (match timerOfNumber inst with
    | some i => callOf s (andThen (timerWrite i off v s) fun t => .next ((), t))
    | none => callErr (.contractTimerOffset inst off) s)

end Sys2Proof.Machine
end

