-- ==== Sys2Proof/Safety.lean ====
section
/-! DEFINITION. What claims call a sound block and a safe run. -/

namespace Sys2Proof.Machine

/-- What holds of a block between two instructions. -/
structure Inv (s : State) : Prop where
  /-- The memory is in its canonical form. -/
  memory : Memory.wf s.mem = true
  /-- R493: "bit i always equals the line" of timer 0. -/
  line0 : s.irq.status.getLsbD 0 = s.via0.top
  /-- R493: the same of timer 1. -/
  line1 : s.irq.status.getLsbD 1 = s.via1.top
  /-- R418: the NMI slot is never set. -/
  nmi : s.irq.status.getLsbD 7 = false
  /-- R412, R414: while a request is due the countdown is not `IDLE`. -/
  due : s.irq.due = true → s.irq.countdown ≠ none
  /-- R415: no interrupt entry is running. -/
  outside : s.sched.inEntry = false
  /-- R55, R404: the block is not faulted. -/
  running : s.fault = none

/-- What holds of the registers and of the controller when nothing but bus accesses and time has come between two
states: no bus access and no advance changes them (R196, R197). -/
structure Steady (s t : State) : Prop where
  regs        : t.regs = s.regs
  platform    : t.platform = s.platform
  total       : t.sched.total = s.sched.total
  branch      : t.sched.branch = s.sched.branch
  inEntry     : t.sched.inEntry = s.sched.inEntry
  due         : t.irq.due = s.irq.due
  justSet     : t.irq.justSet = s.irq.justSet
  justCleared : t.irq.justCleared = s.irq.justCleared

/-- What holds when nothing but bus reads and time has come between two states: memory and the modes of the timers
are unchanged too. -/
structure Quiet (s t : State) : Prop extends Steady s t where
  mem  : t.mem = s.mem
  acr0 : t.via0.acr = s.via0.acr
  pcr0 : t.via0.pcr = s.via0.pcr
  acr1 : t.via1.acr = s.via1.acr
  pcr1 : t.via1.pcr = s.via1.pcr

/-- The memory after a bus write: changed at the address where the bus takes it to plain memory, and nowhere else. -/
def storedMem (s : State) (a : Address) (v : Byte) : List Host.Cell :=
  if route s.platform a = .memory then writeByte s.mem a.toNat v else s.mem

/-- A timer in none of the modes that fail when they are used (R485, R487). -/
def Via.supported (v : Via) : Bool :=
  decide (v.shiftMode = 0) && !handshakeControl v.ca2Control && !handshakeControl v.cb2Control

/-- Both timers are in supported modes: no access of a timer register raises. -/
def Supported (s : State) : Prop := s.via0.supported = true ∧ s.via1.supported = true

/-- The stack bytes that `n` pushes write, from the present stack pointer down, are plain memory. -/
def StackPlain : Nat → State → Prop
  | 0, _ => True
  | n + 1, s => route s.platform (stackAddr s.regs.sp) = .memory ∧ StackPlain n (s.setSp (s.regs.sp - 1))

/-- A state reached from another by steps. -/
inductive Reaches (s : State) : State → Prop where
  | refl : Reaches s s
  | tail {t u : State} : Reaches s t → step t = .next u → Reaches s u

end Sys2Proof.Machine
end

