-- ==== Sys2Proof/Safety/Tables.lean ====
section
/-! DEFINITION. The tables of the spec that statements are about, written out once more, so that a statement does not
take them from the meaning it is about: Table 41-1 (`timingOf`), the operands of Table 30-1 (`operandOf`), the illegal
opcodes of R116, and the opcodes and formats that the rule of each mnemonic lists (`formsOf`). -/

namespace Sys2Proof.Machine

/-- Table 41-1: `base_cycles`, the page-crossing penalty, `read_sub` and `write_sub` of each instruction. -/
def timingOf : Instr → Timing
  | .brk => { base := 7 }
  | .oraIzx _ => { base := 6, readSub := 5 }
  | .oraZp _ => { base := 3, readSub := 2 }
  | .aslZp _ => { base := 5, readSub := 2, writeSub := 2 }
  | .php => { base := 3 }
  | .oraImm _ => { base := 2 }
  | .aslAcc => { base := 2 }
  | .oraAbs _ => { base := 4, readSub := 3 }
  | .aslAbs _ => { base := 6, readSub := 3, writeSub := 2 }
  | .bpl _ => { base := 2 }
  | .oraIzy _ => { base := 5, penalty := true, readSub := 4 }
  | .oraZpx _ => { base := 4, readSub := 3 }
  | .aslZpx _ => { base := 6, readSub := 3, writeSub := 2 }
  | .clc => { base := 2 }
  | .oraAby _ => { base := 4, penalty := true, readSub := 3 }
  | .oraAbx _ => { base := 4, penalty := true, readSub := 3 }
  | .aslAbx _ => { base := 7, readSub := 4, writeSub := 2 }
  | .jsr _ => { base := 6 }
  | .andIzx _ => { base := 6, readSub := 5 }
  | .bitZp _ => { base := 3, readSub := 2 }
  | .andZp _ => { base := 3, readSub := 2 }
  | .rolZp _ => { base := 5, readSub := 2, writeSub := 2 }
  | .plp => { base := 4 }
  | .andImm _ => { base := 2 }
  | .rolAcc => { base := 2 }
  | .bitAbs _ => { base := 4, readSub := 3 }
  | .andAbs _ => { base := 4, readSub := 3 }
  | .rolAbs _ => { base := 6, readSub := 3, writeSub := 2 }
  | .bmi _ => { base := 2 }
  | .andIzy _ => { base := 5, penalty := true, readSub := 4 }
  | .andZpx _ => { base := 4, readSub := 3 }
  | .rolZpx _ => { base := 6, readSub := 3, writeSub := 2 }
  | .sec => { base := 2 }
  | .andAby _ => { base := 4, penalty := true, readSub := 3 }
  | .andAbx _ => { base := 4, penalty := true, readSub := 3 }
  | .rolAbx _ => { base := 7, readSub := 4, writeSub := 2 }
  | .rti => { base := 6 }
  | .eorIzx _ => { base := 6, readSub := 5 }
  | .eorZp _ => { base := 3, readSub := 2 }
  | .lsrZp _ => { base := 5, readSub := 2, writeSub := 2 }
  | .pha => { base := 3 }
  | .eorImm _ => { base := 2 }
  | .lsrAcc => { base := 2 }
  | .jmpAbs _ => { base := 3 }
  | .eorAbs _ => { base := 4, readSub := 3 }
  | .lsrAbs _ => { base := 6, readSub := 3, writeSub := 2 }
  | .bvc _ => { base := 2 }
  | .eorIzy _ => { base := 5, penalty := true, readSub := 4 }
  | .eorZpx _ => { base := 4, readSub := 3 }
  | .lsrZpx _ => { base := 6, readSub := 3, writeSub := 2 }
  | .cli => { base := 2 }
  | .eorAby _ => { base := 4, penalty := true, readSub := 3 }
  | .eorAbx _ => { base := 4, penalty := true, readSub := 3 }
  | .lsrAbx _ => { base := 7, readSub := 4, writeSub := 2 }
  | .rts => { base := 6 }
  | .adcIzx _ => { base := 6, readSub := 5 }
  | .adcZp _ => { base := 3, readSub := 2 }
  | .rorZp _ => { base := 5, readSub := 2, writeSub := 2 }
  | .pla => { base := 4 }
  | .adcImm _ => { base := 2 }
  | .rorAcc => { base := 2 }
  | .jmpInd _ => { base := 5 }
  | .adcAbs _ => { base := 4, readSub := 3 }
  | .rorAbs _ => { base := 6, readSub := 3, writeSub := 2 }
  | .bvs _ => { base := 2 }
  | .adcIzy _ => { base := 5, penalty := true, readSub := 4 }
  | .adcZpx _ => { base := 4, readSub := 3 }
  | .rorZpx _ => { base := 6, readSub := 3, writeSub := 2 }
  | .sei => { base := 2 }
  | .adcAby _ => { base := 4, penalty := true, readSub := 3 }
  | .adcAbx _ => { base := 4, penalty := true, readSub := 3 }
  | .rorAbx _ => { base := 7, readSub := 4, writeSub := 2 }
  | .staIzx _ => { base := 6, writeSub := 5 }
  | .styZp _ => { base := 3, writeSub := 2 }
  | .staZp _ => { base := 3, writeSub := 2 }
  | .stxZp _ => { base := 3, writeSub := 2 }
  | .dey => { base := 2 }
  | .txa => { base := 2 }
  | .styAbs _ => { base := 4, writeSub := 3 }
  | .staAbs _ => { base := 4, writeSub := 3 }
  | .stxAbs _ => { base := 4, writeSub := 3 }
  | .bcc _ => { base := 2 }
  | .staIzy _ => { base := 6, writeSub := 5 }
  | .styZpx _ => { base := 4, writeSub := 3 }
  | .staZpx _ => { base := 4, writeSub := 3 }
  | .stxZpy _ => { base := 4, writeSub := 3 }
  | .tya => { base := 2 }
  | .staAby _ => { base := 5, writeSub := 4 }
  | .txs => { base := 2 }
  | .staAbx _ => { base := 5, writeSub := 4 }
  | .ldyImm _ => { base := 2 }
  | .ldaIzx _ => { base := 6, readSub := 5 }
  | .ldxImm _ => { base := 2 }
  | .ldyZp _ => { base := 3, readSub := 2 }
  | .ldaZp _ => { base := 3, readSub := 2 }
  | .ldxZp _ => { base := 3, readSub := 2 }
  | .tay => { base := 2 }
  | .ldaImm _ => { base := 2 }
  | .tax => { base := 2 }
  | .ldyAbs _ => { base := 4, readSub := 3 }
  | .ldaAbs _ => { base := 4, readSub := 3 }
  | .ldxAbs _ => { base := 4, readSub := 3 }
  | .bcs _ => { base := 2 }
  | .ldaIzy _ => { base := 5, penalty := true, readSub := 4 }
  | .ldyZpx _ => { base := 4, readSub := 3 }
  | .ldaZpx _ => { base := 4, readSub := 3 }
  | .ldxZpy _ => { base := 4, readSub := 3 }
  | .clv => { base := 2 }
  | .ldaAby _ => { base := 4, penalty := true, readSub := 3 }
  | .tsx => { base := 2 }
  | .ldyAbx _ => { base := 4, penalty := true, readSub := 3 }
  | .ldaAbx _ => { base := 4, penalty := true, readSub := 3 }
  | .ldxAby _ => { base := 4, penalty := true, readSub := 3 }
  | .cpyImm _ => { base := 2 }
  | .cmpIzx _ => { base := 6, readSub := 5 }
  | .cpyZp _ => { base := 3, readSub := 2 }
  | .cmpZp _ => { base := 3, readSub := 2 }
  | .decZp _ => { base := 5, readSub := 2, writeSub := 2 }
  | .iny => { base := 2 }
  | .cmpImm _ => { base := 2 }
  | .dex => { base := 2 }
  | .cpyAbs _ => { base := 4, readSub := 3 }
  | .cmpAbs _ => { base := 4, readSub := 3 }
  | .decAbs _ => { base := 6, readSub := 3, writeSub := 2 }
  | .bne _ => { base := 2 }
  | .cmpIzy _ => { base := 5, penalty := true, readSub := 4 }
  | .cmpZpx _ => { base := 4, readSub := 3 }
  | .decZpx _ => { base := 6, readSub := 3, writeSub := 2 }
  | .cld => { base := 2 }
  | .cmpAby _ => { base := 4, penalty := true, readSub := 3 }
  | .cmpAbx _ => { base := 4, penalty := true, readSub := 3 }
  | .decAbx _ => { base := 7, readSub := 4, writeSub := 2 }
  | .cpxImm _ => { base := 2 }
  | .sbcIzx _ => { base := 6, readSub := 5 }
  | .cpxZp _ => { base := 3, readSub := 2 }
  | .sbcZp _ => { base := 3, readSub := 2 }
  | .incZp _ => { base := 5, readSub := 2, writeSub := 2 }
  | .inx => { base := 2 }
  | .sbcImm _ => { base := 2 }
  | .nop => { base := 2 }
  | .cpxAbs _ => { base := 4, readSub := 3 }
  | .sbcAbs _ => { base := 4, readSub := 3 }
  | .incAbs _ => { base := 6, readSub := 3, writeSub := 2 }
  | .beq _ => { base := 2 }
  | .sbcIzy _ => { base := 5, penalty := true, readSub := 4 }
  | .sbcZpx _ => { base := 4, readSub := 3 }
  | .incZpx _ => { base := 6, readSub := 3, writeSub := 2 }
  | .sed => { base := 2 }
  | .sbcAby _ => { base := 4, penalty := true, readSub := 3 }
  | .sbcAbx _ => { base := 4, penalty := true, readSub := 3 }
  | .incAbx _ => { base := 7, readSub := 4, writeSub := 2 }

/-- R152 to R161: the operand of each instruction that reads or writes one by the gated accesses or as an immediate. -/
def operandOf : Instr → Option Operand
  | .brk => none
  | .oraIzx b => some (.byte (.izx b))
  | .oraZp b => some (.byte (.zp b))
  | .aslZp b => some (.byte (.zp b))
  | .php => none
  | .oraImm b => some (.imm b)
  | .aslAcc => none
  | .oraAbs w => some (.byte (.abs w))
  | .aslAbs w => some (.byte (.abs w))
  | .bpl _ => none
  | .oraIzy b => some (.byte (.izy b))
  | .oraZpx b => some (.byte (.zpx b))
  | .aslZpx b => some (.byte (.zpx b))
  | .clc => none
  | .oraAby w => some (.byte (.aby w))
  | .oraAbx w => some (.byte (.abx w))
  | .aslAbx w => some (.byte (.abx w))
  | .jsr _ => none
  | .andIzx b => some (.byte (.izx b))
  | .bitZp b => some (.byte (.zp b))
  | .andZp b => some (.byte (.zp b))
  | .rolZp b => some (.byte (.zp b))
  | .plp => none
  | .andImm b => some (.imm b)
  | .rolAcc => none
  | .bitAbs w => some (.byte (.abs w))
  | .andAbs w => some (.byte (.abs w))
  | .rolAbs w => some (.byte (.abs w))
  | .bmi _ => none
  | .andIzy b => some (.byte (.izy b))
  | .andZpx b => some (.byte (.zpx b))
  | .rolZpx b => some (.byte (.zpx b))
  | .sec => none
  | .andAby w => some (.byte (.aby w))
  | .andAbx w => some (.byte (.abx w))
  | .rolAbx w => some (.byte (.abx w))
  | .rti => none
  | .eorIzx b => some (.byte (.izx b))
  | .eorZp b => some (.byte (.zp b))
  | .lsrZp b => some (.byte (.zp b))
  | .pha => none
  | .eorImm b => some (.imm b)
  | .lsrAcc => none
  | .jmpAbs _ => none
  | .eorAbs w => some (.byte (.abs w))
  | .lsrAbs w => some (.byte (.abs w))
  | .bvc _ => none
  | .eorIzy b => some (.byte (.izy b))
  | .eorZpx b => some (.byte (.zpx b))
  | .lsrZpx b => some (.byte (.zpx b))
  | .cli => none
  | .eorAby w => some (.byte (.aby w))
  | .eorAbx w => some (.byte (.abx w))
  | .lsrAbx w => some (.byte (.abx w))
  | .rts => none
  | .adcIzx b => some (.byte (.izx b))
  | .adcZp b => some (.byte (.zp b))
  | .rorZp b => some (.byte (.zp b))
  | .pla => none
  | .adcImm b => some (.imm b)
  | .rorAcc => none
  | .jmpInd _ => none
  | .adcAbs w => some (.byte (.abs w))
  | .rorAbs w => some (.byte (.abs w))
  | .bvs _ => none
  | .adcIzy b => some (.byte (.izy b))
  | .adcZpx b => some (.byte (.zpx b))
  | .rorZpx b => some (.byte (.zpx b))
  | .sei => none
  | .adcAby w => some (.byte (.aby w))
  | .adcAbx w => some (.byte (.abx w))
  | .rorAbx w => some (.byte (.abx w))
  | .staIzx b => some (.byte (.izx b))
  | .styZp b => some (.byte (.zp b))
  | .staZp b => some (.byte (.zp b))
  | .stxZp b => some (.byte (.zp b))
  | .dey => none
  | .txa => none
  | .styAbs w => some (.byte (.abs w))
  | .staAbs w => some (.byte (.abs w))
  | .stxAbs w => some (.byte (.abs w))
  | .bcc _ => none
  | .staIzy b => some (.byte (.izy b))
  | .styZpx b => some (.byte (.zpx b))
  | .staZpx b => some (.byte (.zpx b))
  | .stxZpy b => some (.byte (.zpy b))
  | .tya => none
  | .staAby w => some (.byte (.aby w))
  | .txs => none
  | .staAbx w => some (.byte (.abx w))
  | .ldyImm b => some (.imm b)
  | .ldaIzx b => some (.byte (.izx b))
  | .ldxImm b => some (.imm b)
  | .ldyZp b => some (.byte (.zp b))
  | .ldaZp b => some (.byte (.zp b))
  | .ldxZp b => some (.byte (.zp b))
  | .tay => none
  | .ldaImm b => some (.imm b)
  | .tax => none
  | .ldyAbs w => some (.byte (.abs w))
  | .ldaAbs w => some (.byte (.abs w))
  | .ldxAbs w => some (.byte (.abs w))
  | .bcs _ => none
  | .ldaIzy b => some (.byte (.izy b))
  | .ldyZpx b => some (.byte (.zpx b))
  | .ldaZpx b => some (.byte (.zpx b))
  | .ldxZpy b => some (.byte (.zpy b))
  | .clv => none
  | .ldaAby w => some (.byte (.aby w))
  | .tsx => none
  | .ldyAbx w => some (.byte (.abx w))
  | .ldaAbx w => some (.byte (.abx w))
  | .ldxAby w => some (.byte (.aby w))
  | .cpyImm b => some (.imm b)
  | .cmpIzx b => some (.byte (.izx b))
  | .cpyZp b => some (.byte (.zp b))
  | .cmpZp b => some (.byte (.zp b))
  | .decZp b => some (.byte (.zp b))
  | .iny => none
  | .cmpImm b => some (.imm b)
  | .dex => none
  | .cpyAbs w => some (.byte (.abs w))
  | .cmpAbs w => some (.byte (.abs w))
  | .decAbs w => some (.byte (.abs w))
  | .bne _ => none
  | .cmpIzy b => some (.byte (.izy b))
  | .cmpZpx b => some (.byte (.zpx b))
  | .decZpx b => some (.byte (.zpx b))
  | .cld => none
  | .cmpAby w => some (.byte (.aby w))
  | .cmpAbx w => some (.byte (.abx w))
  | .decAbx w => some (.byte (.abx w))
  | .cpxImm b => some (.imm b)
  | .sbcIzx b => some (.byte (.izx b))
  | .cpxZp b => some (.byte (.zp b))
  | .sbcZp b => some (.byte (.zp b))
  | .incZp b => some (.byte (.zp b))
  | .inx => none
  | .sbcImm b => some (.imm b)
  | .nop => none
  | .cpxAbs w => some (.byte (.abs w))
  | .sbcAbs w => some (.byte (.abs w))
  | .incAbs w => some (.byte (.abs w))
  | .beq _ => none
  | .sbcIzy b => some (.byte (.izy b))
  | .sbcZpx b => some (.byte (.zpx b))
  | .incZpx b => some (.byte (.zpx b))
  | .sed => none
  | .sbcAby w => some (.byte (.aby w))
  | .sbcAbx w => some (.byte (.abx w))
  | .incAbx w => some (.byte (.abx w))

/-- R116: the 105 opcodes with no instruction. -/
def illegalOpcodes : List Byte :=
  [0x02, 0x03, 0x04, 0x07, 0x0B, 0x0C, 0x0F, 0x12, 0x13, 0x14, 0x17, 0x1A, 0x1B, 0x1C, 0x1F,
   0x22, 0x23, 0x27, 0x2B, 0x2F, 0x32, 0x33, 0x34, 0x37, 0x3A, 0x3B, 0x3C, 0x3F, 0x42, 0x43,
   0x44, 0x47, 0x4B, 0x4F, 0x52, 0x53, 0x54, 0x57, 0x5A, 0x5B, 0x5C, 0x5F, 0x62, 0x63, 0x64,
   0x67, 0x6B, 0x6F, 0x72, 0x73, 0x74, 0x77, 0x7A, 0x7B, 0x7C, 0x7F, 0x80, 0x82, 0x83, 0x87,
   0x89, 0x8B, 0x8F, 0x92, 0x93, 0x97, 0x9B, 0x9C, 0x9E, 0x9F, 0xA3, 0xA7, 0xAB, 0xAF, 0xB2,
   0xB3, 0xB7, 0xBB, 0xBF, 0xC2, 0xC3, 0xC7, 0xCB, 0xCF, 0xD2, 0xD3, 0xD4, 0xD7, 0xDA, 0xDB,
   0xDC, 0xDF, 0xE2, 0xE3, 0xE7, 0xEB, 0xEF, 0xF2, 0xF3, 0xF4, 0xF7, 0xFA, 0xFB, 0xFC, 0xFF]

/-- The opcodes and formats that the rule of each mnemonic lists under "Encoding". -/
def formsOf : Mnemonic → List (Byte × Format)
  | .lda => [(0xA9, .imm), (0xA5, .zp), (0xB5, .zpx), (0xAD, .abs), (0xBD, .abx), (0xB9, .aby), (0xA1, .izx),
    (0xB1, .izy)]
  | .ldx => [(0xA2, .imm), (0xA6, .zp), (0xB6, .zpy), (0xAE, .abs), (0xBE, .aby)]
  | .ldy => [(0xA0, .imm), (0xA4, .zp), (0xB4, .zpx), (0xAC, .abs), (0xBC, .abx)]
  | .sta => [(0x85, .zp), (0x95, .zpx), (0x8D, .abs), (0x9D, .abx), (0x99, .aby), (0x81, .izx), (0x91, .izy)]
  | .stx => [(0x86, .zp), (0x96, .zpy), (0x8E, .abs)]
  | .sty => [(0x84, .zp), (0x94, .zpx), (0x8C, .abs)]
  | .tax => [(0xAA, .imp)]
  | .tay => [(0xA8, .imp)]
  | .txa => [(0x8A, .imp)]
  | .tya => [(0x98, .imp)]
  | .tsx => [(0xBA, .imp)]
  | .txs => [(0x9A, .imp)]
  | .adc => [(0x69, .imm), (0x65, .zp), (0x75, .zpx), (0x6D, .abs), (0x7D, .abx), (0x79, .aby), (0x61, .izx),
    (0x71, .izy)]
  | .sbc => [(0xE9, .imm), (0xE5, .zp), (0xF5, .zpx), (0xED, .abs), (0xFD, .abx), (0xF9, .aby), (0xE1, .izx),
    (0xF1, .izy)]
  | .and => [(0x29, .imm), (0x25, .zp), (0x35, .zpx), (0x2D, .abs), (0x3D, .abx), (0x39, .aby), (0x21, .izx),
    (0x31, .izy)]
  | .ora => [(0x09, .imm), (0x05, .zp), (0x15, .zpx), (0x0D, .abs), (0x1D, .abx), (0x19, .aby), (0x01, .izx),
    (0x11, .izy)]
  | .eor => [(0x49, .imm), (0x45, .zp), (0x55, .zpx), (0x4D, .abs), (0x5D, .abx), (0x59, .aby), (0x41, .izx),
    (0x51, .izy)]
  | .bit => [(0x24, .zp), (0x2C, .abs)]
  | .cmp => [(0xC9, .imm), (0xC5, .zp), (0xD5, .zpx), (0xCD, .abs), (0xDD, .abx), (0xD9, .aby), (0xC1, .izx),
    (0xD1, .izy)]
  | .cpx => [(0xE0, .imm), (0xE4, .zp), (0xEC, .abs)]
  | .cpy => [(0xC0, .imm), (0xC4, .zp), (0xCC, .abs)]
  | .inc => [(0xE6, .zp), (0xF6, .zpx), (0xEE, .abs), (0xFE, .abx)]
  | .dec => [(0xC6, .zp), (0xD6, .zpx), (0xCE, .abs), (0xDE, .abx)]
  | .inx => [(0xE8, .imp)]
  | .iny => [(0xC8, .imp)]
  | .dex => [(0xCA, .imp)]
  | .dey => [(0x88, .imp)]
  | .asl => [(0x0A, .acc), (0x06, .zp), (0x16, .zpx), (0x0E, .abs), (0x1E, .abx)]
  | .lsr => [(0x4A, .acc), (0x46, .zp), (0x56, .zpx), (0x4E, .abs), (0x5E, .abx)]
  | .rol => [(0x2A, .acc), (0x26, .zp), (0x36, .zpx), (0x2E, .abs), (0x3E, .abx)]
  | .ror => [(0x6A, .acc), (0x66, .zp), (0x76, .zpx), (0x6E, .abs), (0x7E, .abx)]
  | .pha => [(0x48, .imp)]
  | .php => [(0x08, .imp)]
  | .pla => [(0x68, .imp)]
  | .plp => [(0x28, .imp)]
  | .clc => [(0x18, .imp)]
  | .cld => [(0xD8, .imp)]
  | .cli => [(0x58, .imp)]
  | .clv => [(0xB8, .imp)]
  | .sec => [(0x38, .imp)]
  | .sed => [(0xF8, .imp)]
  | .sei => [(0x78, .imp)]
  | .nop => [(0xEA, .imp)]
  | .bpl => [(0x10, .rel)]
  | .bmi => [(0x30, .rel)]
  | .bvc => [(0x50, .rel)]
  | .bvs => [(0x70, .rel)]
  | .bcc => [(0x90, .rel)]
  | .bcs => [(0xB0, .rel)]
  | .bne => [(0xD0, .rel)]
  | .beq => [(0xF0, .rel)]
  | .jmp => [(0x4C, .abs), (0x6C, .ind)]
  | .jsr => [(0x20, .abs)]
  | .rts => [(0x60, .imp)]
  | .brk => [(0x00, .imp)]
  | .rti => [(0x40, .imp)]

end Sys2Proof.Machine
end

