-- ==== Sys2Proof/Certificates/Slice0/Obligations.lean ====
section
/-! DEFINITION. The statements for the provers, and the vocabulary they share. -/

namespace Sys2Proof.Machine

/-- R140: the flags after `SetZeroNegativeFromValue(v)`. -/
def flagsZN (v : Byte) (p : Flags) : Flags := { p with z := decide (v = 0), n := v.getLsbD 7 }

/-- The state with the register file replaced. -/
def State.setRegs (s : State) (r : Regs) : State := { s with regs := r }

/-- The instructions of a mnemonic are exactly those whose opcode and format its rule lists. -/
def Encoded (m : Mnemonic) : Prop :=
  ∀ i : Instr, i.mnemonic = m ↔ ∃ e ∈ formsOf m, (encode i).head? = some e.1 ∧ i.format = e.2

/-- Every instruction of a mnemonic, in every one of its forms, with the timers in supported modes: the operand `v` is
what `Load` yields (R209), the instruction completes, the registers are `f v` of the old ones, and the rest of the
state is as the operand's read and then the passing of the remaining cycles leave it, so that no byte of memory and no
control bit is changed. -/
def ReadsInto (m : Mnemonic) (f : Byte → Regs → Regs) (ok : State → Prop) : Prop :=
  Encoded m ∧ ∀ (i : Instr) (s : State), i.mnemonic = m → Supported s → ok s →
    ∃ o v t u, operandOf i = some o ∧ load (timingOf i) o s = .next (v, t) ∧ exec i s = .next u ∧
      u = advance ((timingOf i).base - (timingOf i).readSub + s.sched.branch) (t.setRegs (f v s.regs)) ∧
      u.regs = f v s.regs ∧ Quiet (s.setRegs (f v s.regs)) u

/-- The one byte of memory that an access stores: every other byte reads as before; the byte holds the value where the
bus takes the address to plain memory; and where it does not, memory is unchanged. -/
def StoresByte (s u : State) (a : Address) (v : Byte) : Prop :=
  (∀ c : Nat, c ≠ a.toNat → readByte u.mem c = readByte s.mem c) ∧
  (route s.platform a = .memory → Memory.wf s.mem = true → readByte u.mem a.toNat = v) ∧
  (route s.platform a ≠ .memory → u.mem = s.mem)

/-- Every form of a store: it completes, writes the register's byte at the effective address, and changes no register
and no control bit. -/
def StoresRegister (m : Mnemonic) (f : Regs → Byte) : Prop :=
  Encoded m ∧ ∀ (i : Instr) (s : State), i.mnemonic = m → Supported s →
    ∃ e r t q u, operandOf i = some (.byte e) ∧ resolve e s = .next (r, t) ∧
      gatedWrite (timingOf i) r.ea (f s.regs) t = .next q ∧ exec i s = .next u ∧
      u = advance ((timingOf i).base - (timingOf i).writeSub + s.sched.branch) q ∧
      Steady s u ∧ StoresByte s u r.ea (f s.regs)

/-- Every memory form of a read-modify-write instruction: one read and one write of the effective address, the result
and the flags as `f` gives them, and nothing else changed. -/
def Modifies (m : Mnemonic) (f : Byte → Flags → Byte × Flags) : Prop :=
  Encoded m ∧ ∀ (i : Instr) (s : State), i.mnemonic = m → i.format ≠ .acc → Supported s →
    ∃ e r t v q x u, operandOf i = some (.byte e) ∧ resolve e s = .next (r, t) ∧
      gatedRead (timingOf i) r t = .next (v, q) ∧ gatedWrite (timingOf i) r.ea (f v s.regs.p).1 q = .next x ∧
      exec i s = .next u ∧
      u = advance ((timingOf i).base - (timingOf i).readSub - (timingOf i).writeSub + s.sched.branch)
        (x.setP (f v s.regs.p).2) ∧
      Steady (s.setP (f v s.regs.p).2) u ∧ StoresByte s u r.ea (f v s.regs.p).1

/-- A branch: not taken it costs 2 cycles and changes no register; taken it goes to the target and costs 1 cycle more,
or 2 where the target is on another page than the next instruction. -/
def BranchesOn (i : Byte → Instr) (op : Byte) (cond : Flags → Bool) : Prop :=
  (∀ d : Byte, encode (i d) = [op, d]) ∧ ∀ (d : Byte) (s : State),
    (cond s.regs.p = false → exec (i d) s = .next (advance (2 + s.sched.branch) s)) ∧
    (cond s.regs.p = true →
      exec (i d) s = .next
        (advance (2 + (if page (s.regs.pc + sext16 d) = page s.regs.pc then 1 else 2))
          { s with
            regs := { s.regs with pc := s.regs.pc + sext16 d }
            sched := { s.sched with
              branch := if page (s.regs.pc + sext16 d) = page s.regs.pc then 1 else 2 } }))

/-- An instruction of one byte that changes registers only: it takes its 2 cycles and leaves everything else to
time. -/
def ChangesRegs (i : Instr) (op : Byte) (f : Regs → Regs) : Prop :=
  encode i = [op] ∧ ∀ s : State, exec i s = .next (advance (2 + s.sched.branch) (s.setRegs (f s.regs)))

/-- The effective address of a mode as R153 to R161 give it, from the registers and from memory alone. -/
def plainEa (s : State) : EaMode → Address
  | .zp z => zext16 z
  | .zpx z => zext16 (z + s.regs.x)
  | .zpy z => zext16 (z + s.regs.y)
  | .abs w => w
  | .abx w => w + zext16 s.regs.x
  | .aby w => w + zext16 s.regs.y
  | .izx z => pair (readByte s.mem (zext16 (z + s.regs.x + 1)).toNat) (readByte s.mem (zext16 (z + s.regs.x)).toNat)
  | .izy z => pair (readByte s.mem (zext16 (z + 1)).toNat) (readByte s.mem (zext16 z).toNat) + zext16 s.regs.y

/-- R162: whether the index of a mode crosses a page. -/
def plainCrossed (s : State) : EaMode → Bool
  | .abx w => decide (page w ≠ page (w + zext16 s.regs.x))
  | .aby w => decide (page w ≠ page (w + zext16 s.regs.y))
  | .izy z =>
    decide
      (page (pair (readByte s.mem (zext16 (z + 1)).toNat) (readByte s.mem (zext16 z).toNat)) ≠
        page (plainEa s (.izy z)))
  | _ => false

/-- The pointer bytes of a mode (R165) are plain memory. -/
def PointersPlain (s : State) : EaMode → Prop
  | .izx z => route s.platform (zext16 (z + s.regs.x)) = .memory ∧ route s.platform (zext16 (z + s.regs.x + 1)) = .memory
  | .izy z => route s.platform (zext16 z) = .memory ∧ route s.platform (zext16 (z + 1)) = .memory
  | _ => True

/-- The byte of memory at an address, where the bus takes the address to plain memory. -/
def MemoryByte (s : State) (a : Address) (v : Byte) : Prop := route s.platform a = .memory ∧ readByte s.mem a.toNat = v

/-- The three bytes an exception pushes (R374), with `S0` the stack pointer before: every other byte of memory reads
as before, and the frame holds the address, high byte first pushed, and the status. -/
def PushesFrame (s u : State) (ret : Address) (status : Byte) : Prop :=
  (∀ c : Nat, c ≠ (stackAddr s.regs.sp).toNat → c ≠ (stackAddr (s.regs.sp - 1)).toNat →
    c ≠ (stackAddr (s.regs.sp - 2)).toNat → readByte u.mem c = readByte s.mem c) ∧
  (Memory.wf s.mem = true →
    readByte u.mem (stackAddr s.regs.sp).toNat = hi ret ∧
    readByte u.mem (stackAddr (s.regs.sp - 1)).toNat = lo ret ∧
    readByte u.mem (stackAddr (s.regs.sp - 2)).toNat = status)

/-- The state with the program counter, the stack pointer and the flags replaced: the registers a control transfer
writes. -/
def State.setControl (s : State) (pc : Address) (sp : Byte) (p : Flags) : State :=
  s.setRegs { s.regs with pc := pc, sp := sp, p := p }

end Sys2Proof.Machine

open Sys2Proof Sys2Proof.Machine

/-- R221, R222, R223. For every form of LDA, LDX and LDY and every state with both timers in supported modes: Load
yields an operand, the instruction completes, the register holds the operand, Z and N are those of the operand,
every other register and flag and all of memory is unchanged, and the rest of the state is that of the read followed
by the remaining cycles of Table 41-1. -/
def Obligations.LoadsReadTheirOperand : Prop :=
  ReadsInto .lda (fun m r => { r with a := m, p := flagsZN m r.p }) (fun _ => True) ∧
  ReadsInto .ldx (fun m r => { r with x := m, p := flagsZN m r.p }) (fun _ => True) ∧
  ReadsInto .ldy (fun m r => { r with y := m, p := flagsZN m r.p }) (fun _ => True)

/-- R263, R264, R265, R269. For every form of AND, ORA, EOR and BIT, with both timers in supported modes: the
instruction completes; AND, ORA and EOR put the combination of A and the operand in A and set Z and N from it; BIT
sets Z from A and the operand, N and V from bits 7 and 6 of the operand, and leaves A; nothing else changes but by
the read and the passing of time. -/
def Obligations.LogicalInstructionsCombineTheAccumulator : Prop :=
  ReadsInto .and (fun m r => { r with a := r.a &&& m, p := flagsZN (r.a &&& m) r.p }) (fun _ => True) ∧
  ReadsInto .ora (fun m r => { r with a := r.a ||| m, p := flagsZN (r.a ||| m) r.p }) (fun _ => True) ∧
  ReadsInto .eor (fun m r => { r with a := r.a ^^^ m, p := flagsZN (r.a ^^^ m) r.p }) (fun _ => True) ∧
  ReadsInto .bit
    (fun m r => { r with p := { r.p with z := decide (r.a &&& m = 0), n := m.getLsbD 7, v := m.getLsbD 6 } })
    (fun _ => True)

/-- R266, R267, R268. For every form of CMP, CPX and CPY, with both timers in supported modes: the instruction
completes; C is set exactly when the register is at least the operand as unsigned numbers, Z and N are those of the
difference modulo 256, and no register, other flag or byte of memory changes. -/
def Obligations.ComparisonsSetCarryZeroNegative : Prop :=
  ReadsInto .cmp (fun m r => { r with p := { flagsZN (r.a - m) r.p with c := decide (m.toNat ≤ r.a.toNat) } })
    (fun _ => True) ∧
  ReadsInto .cpx (fun m r => { r with p := { flagsZN (r.x - m) r.p with c := decide (m.toNat ≤ r.x.toNat) } })
    (fun _ => True) ∧
  ReadsInto .cpy (fun m r => { r with p := { flagsZN (r.y - m) r.p with c := decide (m.toNat ≤ r.y.toNat) } })
    (fun _ => True)

/-- R261, R262. For every form of ADC and SBC, with both timers in supported modes and D clear: the instruction
completes; A is the sum (difference) modulo 256 of A, the operand and the carry (inverted borrow), C is the carry
out (no borrow), V the overflow bit of the rule, Z and N those of the result, and nothing else changes but by the
read and the passing of time. With D set, once the operand read has led to a block that is not faulted, the
instruction stops with UnsupportedMode(Decimal) and its own opcode. -/
def Obligations.AddAndSubtract : Prop :=
  ReadsInto .adc
    (fun m r =>
      { r with
        a := BitVec.ofNat 8 (r.a.toNat + m.toNat + r.p.c.toNat)
        p :=
          { flagsZN (BitVec.ofNat 8 (r.a.toNat + m.toNat + r.p.c.toNat)) r.p with
            c := decide (r.a.toNat + m.toNat + r.p.c.toNat ≥ 256)
            v := (~~~(r.a ^^^ m) &&& (r.a ^^^ BitVec.ofNat 8 (r.a.toNat + m.toNat + r.p.c.toNat))).getLsbD 7 } })
    (fun s => s.regs.p.d = false) ∧
  ReadsInto .sbc
    (fun m r =>
      { r with
        a := BitVec.ofInt 8 ((r.a.toNat : Int) - m.toNat - (1 - r.p.c.toNat))
        p :=
          { flagsZN (BitVec.ofInt 8 ((r.a.toNat : Int) - m.toNat - (1 - r.p.c.toNat))) r.p with
            c := decide ((r.a.toNat : Int) - m.toNat - (1 - r.p.c.toNat) ≥ 0)
            v := ((r.a ^^^ m) &&& (r.a ^^^ BitVec.ofInt 8 ((r.a.toNat : Int) - m.toNat - (1 - r.p.c.toNat)))).getLsbD 7 } })
    (fun s => s.regs.p.d = false) ∧
  (∀ (i : Instr) (s t : State) (o : Operand) (v op : Byte), (i.mnemonic = .adc ∨ i.mnemonic = .sbc) →
    s.regs.p.d = true → operandOf i = some o → load (timingOf i) o s = .next (v, t) → t.fault = none →
    (encode i).head? = some op → exec i s = .fault (.unsupportedDecimal op))

/-- R224, R225, R226. For every form of STA, STX and STY, with both timers in supported modes: the addressing mode
resolves to an address, the gated write of the register at that address succeeds, the instruction completes in that
write followed by the remaining cycles, no register, flag or control bit changes, every byte of memory but the one
at that address reads as before, and that byte holds the register where the bus takes the address to plain memory.
-/
def Obligations.StoresWriteTheirRegister : Prop :=
  StoresRegister .sta (fun r => r.a) ∧ StoresRegister .stx (fun r => r.x) ∧ StoresRegister .sty (fun r => r.y)

/-- R270, R271. For every form of INC and DEC, with both timers in supported modes: one gated read and then one
gated write of the effective address, which stores the operand plus (minus) 1 modulo 256; Z and N are those of the
result; no other register, flag, control bit or byte of memory changes. -/
def Obligations.IncrementAndDecrementMemory : Prop :=
  Modifies .inc (fun m p => (m + 1, flagsZN (m + 1) p)) ∧ Modifies .dec (fun m p => (m - 1, flagsZN (m - 1) p))

/-- R310, R311, R312, R313, R314. For every memory form of ASL, LSR, ROL and ROR, with both timers in supported
modes: one gated read and then one gated write of the effective address, which stores the shifted operand; C is the
bit shifted out, Z and N are those of the result (N is 0 after LSR), and no other register, flag, control bit or
byte of memory changes. -/
def Obligations.ShiftsOfMemory : Prop :=
  Modifies .asl (fun m p =>
    (BitVec.ofNat 8 (m.toNat * 2),
      { flagsZN (BitVec.ofNat 8 (m.toNat * 2)) p with c := m.getLsbD 7 })) ∧
  Modifies .lsr (fun m p =>
    (BitVec.ofNat 8 (m.toNat / 2),
      { flagsZN (BitVec.ofNat 8 (m.toNat / 2)) p with c := m.getLsbD 0 })) ∧
  Modifies .rol (fun m p =>
    (BitVec.ofNat 8 (m.toNat * 2 + p.c.toNat),
      { flagsZN (BitVec.ofNat 8 (m.toNat * 2 + p.c.toNat)) p with c := m.getLsbD 7 })) ∧
  Modifies .ror (fun m p =>
    (BitVec.ofNat 8 (m.toNat / 2 + 128 * p.c.toNat),
      { flagsZN (BitVec.ofNat 8 (m.toNat / 2 + 128 * p.c.toNat)) p with c := m.getLsbD 0 }))

/-- R310, R311, R312, R313, R314. In every state the accumulator form of each shift completes in 2 cycles: A holds
the shifted value, C the bit shifted out, Z and N are those of the result, and nothing else changes but by the
passing of time. -/
def Obligations.ShiftsOfTheAccumulator : Prop :=
  ChangesRegs .aslAcc 0x0A (fun r =>
    { r with
      a := BitVec.ofNat 8 (r.a.toNat * 2)
      p := { flagsZN (BitVec.ofNat 8 (r.a.toNat * 2)) r.p with c := r.a.getLsbD 7 } }) ∧
  ChangesRegs .lsrAcc 0x4A (fun r =>
    { r with
      a := BitVec.ofNat 8 (r.a.toNat / 2)
      p := { flagsZN (BitVec.ofNat 8 (r.a.toNat / 2)) r.p with c := r.a.getLsbD 0 } }) ∧
  ChangesRegs .rolAcc 0x2A (fun r =>
    { r with
      a := BitVec.ofNat 8 (r.a.toNat * 2 + r.p.c.toNat)
      p := { flagsZN (BitVec.ofNat 8 (r.a.toNat * 2 + r.p.c.toNat)) r.p with c := r.a.getLsbD 7 } }) ∧
  ChangesRegs .rorAcc 0x6A (fun r =>
    { r with
      a := BitVec.ofNat 8 (r.a.toNat / 2 + 128 * r.p.c.toNat)
      p := { flagsZN (BitVec.ofNat 8 (r.a.toNat / 2 + 128 * r.p.c.toNat)) r.p with c := r.a.getLsbD 0 } })

/-- R227, R228, R229, R230, R231, R232. In every state each transfer completes in 2 cycles: the destination holds
the source, Z and N are those of the value (TXS writes no flag), and nothing else changes but by the passing of
time. -/
def Obligations.TransfersCopyARegister : Prop :=
  ChangesRegs .tax 0xAA (fun r => { r with x := r.a, p := flagsZN r.a r.p }) ∧
  ChangesRegs .tay 0xA8 (fun r => { r with y := r.a, p := flagsZN r.a r.p }) ∧
  ChangesRegs .txa 0x8A (fun r => { r with a := r.x, p := flagsZN r.x r.p }) ∧
  ChangesRegs .tya 0x98 (fun r => { r with a := r.y, p := flagsZN r.y r.p }) ∧
  ChangesRegs .tsx 0xBA (fun r => { r with x := r.sp, p := flagsZN r.sp r.p }) ∧
  ChangesRegs .txs 0x9A (fun r => { r with sp := r.x })

/-- R272, R273, R274, R275. In every state each of the four completes in 2 cycles: the register is 1 more (less)
modulo 256, Z and N are those of the result, and nothing else changes but by the passing of time. -/
def Obligations.IndexRegistersCount : Prop :=
  ChangesRegs .inx 0xE8 (fun r => { r with x := r.x + 1, p := flagsZN (r.x + 1) r.p }) ∧
  ChangesRegs .iny 0xC8 (fun r => { r with y := r.y + 1, p := flagsZN (r.y + 1) r.p }) ∧
  ChangesRegs .dex 0xCA (fun r => { r with x := r.x - 1, p := flagsZN (r.x - 1) r.p }) ∧
  ChangesRegs .dey 0x88 (fun r => { r with y := r.y - 1, p := flagsZN (r.y - 1) r.p })

/-- R335, R336, R338, R339, R340, R342. In every state each of these completes in 2 cycles and writes its one flag
(NOP none); SED does not fault; nothing else changes but by the passing of time. The change of PC that R342 mentions
is the opcode fetch, which stands in the statements about the step. -/
def Obligations.FlagInstructionsWriteOneFlag : Prop :=
  ChangesRegs .clc 0x18 (fun r => { r with p := { r.p with c := false } }) ∧
  ChangesRegs .cld 0xD8 (fun r => { r with p := { r.p with d := false } }) ∧
  ChangesRegs .clv 0xB8 (fun r => { r with p := { r.p with v := false } }) ∧
  ChangesRegs .sec 0x38 (fun r => { r with p := { r.p with c := true } }) ∧
  ChangesRegs .sed 0xF8 (fun r => { r with p := { r.p with d := true } }) ∧
  ChangesRegs .nop 0xEA (fun r => r)

/-- R337, R341. In every state CLI (SEI) completes in 2 cycles: I is 0 (1), IJustCleared is set exactly when I was 1
and is now 0, IJustSet exactly when I was 0 and is now 1, and nothing else changes but by the passing of time. -/
def Obligations.InterruptDisableIsTracked : Prop :=
  ∀ s : State,
    encode .cli = [0x58] ∧ encode .sei = [0x78] ∧
    exec .cli s = .next (advance (2 + s.sched.branch)
      { s with
        regs := { s.regs with p := { s.regs.p with i := false } }
        irq := { s.irq with justSet := false, justCleared := s.regs.p.i } }) ∧
    exec .sei s = .next (advance (2 + s.sched.branch)
      { s with
        regs := { s.regs with p := { s.regs.p with i := true } }
        irq := { s.irq with justSet := !s.regs.p.i, justCleared := false } })

/-- R331, R332. With both timers in supported modes PHA and PHP complete in 3 cycles: the byte (A; the status with
bits 4 and 5 set) goes to 0x0100 + S, S goes down by 1 modulo 256, no other register, flag or control bit changes,
and every other byte of memory reads as before. -/
def Obligations.PushesStoreOneByte : Prop :=
  Encoded .pha ∧ Encoded .php ∧
  (∀ s : State, Supported s →
    (∃ t u, push s.regs.a s = .next t ∧ exec .pha s = .next u ∧ u = advance (3 + s.sched.branch) t ∧
      Steady (s.setSp (s.regs.sp - 1)) u ∧ StoresByte s u (0x0100 + zext16 s.regs.sp) s.regs.a) ∧
    (∃ t u, push (packP true s.regs.p) s = .next t ∧ exec .php s = .next u ∧ u = advance (3 + s.sched.branch) t ∧
      Steady (s.setSp (s.regs.sp - 1)) u ∧ StoresByte s u (0x0100 + zext16 s.regs.sp) (packP true s.regs.p)))

/-- R333, R334. With both timers in supported modes PLA and PLP complete in 4 cycles: S goes up by 1 modulo 256, the
byte pulled is the one at 0x0100 + S (that of memory where the bus takes the address there); PLA puts it in A and
sets Z and N from it; PLP loads all seven flags from it and records a change of I; no other register and no byte of
memory changes. -/
def Obligations.PullsLoadOneByte : Prop :=
  Encoded .pla ∧ Encoded .plp ∧
  (∀ s : State, Supported s → ∃ v t, pop s = .next (v, t) ∧
    (route s.platform (0x0100 + zext16 (s.regs.sp + 1)) = .memory →
      v = readByte s.mem (0x0100 + zext16 (s.regs.sp + 1)).toNat) ∧
    (∃ u, exec .pla s = .next u ∧
      u = advance (4 + s.sched.branch)
        (t.setRegs { s.regs with a := v, sp := s.regs.sp + 1, p := flagsZN v s.regs.p }) ∧
      Quiet (s.setRegs { s.regs with a := v, sp := s.regs.sp + 1, p := flagsZN v s.regs.p }) u) ∧
    (∃ u, exec .plp s = .next u ∧
      u = advance (4 + s.sched.branch)
        { t with
          regs := { s.regs with sp := s.regs.sp + 1, p := unpackP v }
          irq := { t.irq with
            justSet := !s.regs.p.i && v.getLsbD 2
            justCleared := s.regs.p.i && !v.getLsbD 2 } } ∧
      u.regs = { s.regs with sp := s.regs.sp + 1, p := unpackP v } ∧ u.mem = s.mem ∧
      u.irq.justSet = (!s.regs.p.i && v.getLsbD 2) ∧ u.irq.justCleared = (s.regs.p.i && !v.getLsbD 2) ∧
      u.irq.due = s.irq.due ∧ u.sched.total = s.sched.total))

/-- R360, R361, R362, R363, R364, R365, R366, R367, R368. In every state each branch completes: when its condition
holds, PC is the post-fetch PC plus the signed displacement and the branch takes 3 cycles, or 4 when that target is
on another page than the post-fetch PC; when it does not hold, PC stays and the branch takes 2 cycles. No flag,
other register or byte of memory changes. -/
def Obligations.BranchesFollowTheirFlag : Prop :=
  BranchesOn .bpl 0x10 (fun p => !p.n) ∧ BranchesOn .bmi 0x30 (fun p => p.n) ∧ BranchesOn .bvc 0x50 (fun p => !p.v) ∧
  BranchesOn .bvs 0x70 (fun p => p.v) ∧ BranchesOn .bcc 0x90 (fun p => !p.c) ∧ BranchesOn .bcs 0xB0 (fun p => p.c) ∧
  BranchesOn .bne 0xD0 (fun p => !p.z) ∧ BranchesOn .beq 0xF0 (fun p => p.z)

/-- R369, R159, 46_control_transfer.md. JMP absolute always completes in 3 cycles with PC at the operand. JMP
indirect, with both timers in supported modes, completes in 5 cycles with PC at the word whose low byte is read at
the pointer and whose high byte is read at the pointer plus 1 within the pointer's page: at the pointer plus 1 when
its low byte is not 0xFF, at the pointer with its low byte cleared when it is. Where both bytes are plain memory
they are the bytes of memory. Nothing else changes but by the reads and the passing of time. (That IO_WAIT sees the
two pointer accesses as reads is the model's choice, log 7, and no rule of the spec.) -/
def Obligations.JumpsSetTheProgramCounter : Prop :=
  Encoded .jmp ∧
  (∀ (w : Address) (s : State),
    exec (.jmpAbs w) s = .next (advance (3 + s.sched.branch) (s.setPc w)) ∧
    indirectHigh w = (if lo w = 0xFF then w &&& 0xFF00 else w + 1) ∧
    (Supported s → ∃ l t h u v, memRead .read w s = .next (l, t) ∧ memRead .read (indirectHigh w) t = .next (h, u) ∧
      exec (.jmpInd w) s = .next v ∧ v = advance (5 + s.sched.branch) (u.setPc (pair h l)) ∧
      Quiet (s.setPc (pair h l)) v ∧
      (route s.platform w = .memory → l = readByte s.mem w.toNat) ∧
      (route s.platform (indirectHigh w) = .memory → h = readByte s.mem (indirectHigh w).toNat)))

/-- R370, R374, R145. Where the two stack bytes are plain memory JSR completes in 6 cycles: the address of its own
last byte is pushed, high byte first, S goes down by 2, PC is the operand, no flag, other register or control bit
changes, and every other byte of memory reads as before. On any platform, if the two pushes succeed JSR completes in
their state with PC at the operand and the cycles passed. That both operand bytes are fetched before either push is
the statement about the step, which fetches before it executes. -/
def Obligations.SubroutineCallPushesReturnAddress : Prop :=
  Encoded .jsr ∧
  (∀ (w : Address) (s : State),
    (∀ t, push16 (s.regs.pc - 1) s = .next t →
      exec (.jsr w) s = .next (advance (6 + s.sched.branch) (t.setPc w))) ∧
    (StackPlain 2 s → ∃ u, exec (.jsr w) s = .next u ∧ Steady (s.setControl w (s.regs.sp - 2) s.regs.p) u ∧
      (∀ c : Nat, c ≠ (stackAddr s.regs.sp).toNat → c ≠ (stackAddr (s.regs.sp - 1)).toNat →
        readByte u.mem c = readByte s.mem c) ∧
      (Memory.wf s.mem = true →
        readByte u.mem (stackAddr s.regs.sp).toNat = hi (s.regs.pc - 1) ∧
        readByte u.mem (stackAddr (s.regs.sp - 1)).toNat = lo (s.regs.pc - 1))))

/-- R371. With both timers in supported modes RTS completes in 6 cycles: the low and then the high byte of a word
are pulled, S goes up by 2, PC is the word plus 1 modulo 65536, and no flag, other register or byte of memory
changes. Where the two stack bytes are plain memory the word is that of memory. -/
def Obligations.SubroutineReturnAddsOne : Prop :=
  Encoded .rts ∧
  (∀ s : State, Supported s → ∃ w t u, pop16 s = .next (w, t) ∧ exec .rts s = .next u ∧
    u = advance (6 + s.sched.branch) (t.setPc (w + 1)) ∧
    Quiet (s.setControl (w + 1) (s.regs.sp + 2) s.regs.p) u ∧
    (∀ l h, MemoryByte s (stackAddr (s.regs.sp + 1)) l → MemoryByte s (stackAddr (s.regs.sp + 2)) h → w = pair h l))

/-- R372, R374, R36. With both timers in supported modes and the three stack bytes plain memory, BRK completes in 7
cycles: the post-fetch PC plus 1 is pushed, high byte first, and then the status with bits 4 and 5 set; S goes down
by 3; I is set and no other flag, register or control bit changes (D is not cleared, no I marker is set, IntDue
stays); PC is the word of the vector at 0xFFFE; every other byte of memory reads as before. On any platform, if the
pushes and then the vector reads succeed BRK completes in their state, with I set before the reads, PC loaded after
them and the cycles passed; and the countdown is changed by no more than the passing of time: where no access waits,
the exception leaves it and IntDue as they are. (That IO_WAIT sees the vector accesses as reads is the model's
choice, log 7.) -/
def Obligations.SoftwareInterruptTakesTheException : Prop :=
  Encoded .brk ∧
  (∀ s : State,
    (∀ t, takeException (s.regs.pc + 1) true s = .next t →
      exec .brk s = .next (advance (7 + s.sched.branch) t) ∧
      (s.platform.ioWait = [] → t.irq.countdown = s.irq.countdown ∧ t.irq.due = s.irq.due)) ∧
    (∀ t u w x, push16 (s.regs.pc + 1) s = .next t → push (packP true t.regs.p) t = .next u →
      memRead16 0xFFFE 0xFFFF (u.setP { u.regs.p with i := true }) = .next (w, x) →
      exec .brk s = .next (advance (7 + s.sched.branch) (x.setPc w))) ∧
    (Supported s → StackPlain 3 s → ∃ u w, exec .brk s = .next u ∧
      Steady (s.setControl w (s.regs.sp - 3) { s.regs.p with i := true }) u ∧
      PushesFrame s u (s.regs.pc + 1) (packP true s.regs.p) ∧
      (∀ l h, MemoryByte s 0xFFFE l → MemoryByte s 0xFFFF h → w = pair h l)))

/-- R373. With both timers in supported modes RTI completes in 6 cycles: the status is pulled and loads all seven
flags, then the low and high byte of PC are pulled, with nothing added; S goes up by 3, no I marker is set, and no
other register and no byte of memory changes. Where the three stack bytes are plain memory the values are those of
memory. -/
def Obligations.ReturnFromInterruptRestores : Prop :=
  Encoded .rti ∧
  (∀ s : State, Supported s → ∃ v t w x u, pop s = .next (v, t) ∧ pop16 (t.setP (unpackP v)) = .next (w, x) ∧
    exec .rti s = .next u ∧ u = advance (6 + s.sched.branch) (x.setPc w) ∧
    Quiet (s.setControl w (s.regs.sp + 3) (unpackP v)) u ∧
    (∀ q l h, MemoryByte s (stackAddr (s.regs.sp + 1)) q → MemoryByte s (stackAddr (s.regs.sp + 2)) l →
      MemoryByte s (stackAddr (s.regs.sp + 3)) h → v = q ∧ w = pair h l))

/-- R153, R154, R155, R156, R157, R158, R160, R161, R162. The resolver answers what R153 to R162 give: the zero-page
modes wrap inside zero page; (zp,X) reads its pointer bytes, low and then high, at zero-page addresses that wrap
inside zero page; (zp),Y does the same and adds Y after the indirection; the indexed modes add modulo 65536; and
crossed says whether the index changed the page. Where the pointer bytes are plain memory the address is the one
computed from the registers and memory, and no register and no memory changes. (That IO_WAIT sees the pointer
accesses as reads is the model's choice, log 7, and no rule of the spec.) -/
def Obligations.AddressingModesResolve : Prop :=
  (∀ (z : Byte) (w : Address) (s : State),
    resolve (.zp z) s = .next (⟨zext16 z, false⟩, s) ∧
    resolve (.zpx z) s = .next (⟨zext16 (z + s.regs.x), false⟩, s) ∧
    resolve (.zpy z) s = .next (⟨zext16 (z + s.regs.y), false⟩, s) ∧
    resolve (.abs w) s = .next (⟨w, false⟩, s) ∧
    resolve (.abx w) s =
      .next (⟨w + zext16 s.regs.x, decide (page w ≠ page (w + zext16 s.regs.x))⟩, s) ∧
    resolve (.aby w) s =
      .next (⟨w + zext16 s.regs.y, decide (page w ≠ page (w + zext16 s.regs.y))⟩, s) ∧
    (∀ l t h u, memRead .read (zext16 (z + s.regs.x)) s = .next (l, t) →
      memRead .read (zext16 (z + s.regs.x + 1)) t = .next (h, u) →
      resolve (.izx z) s = .next (⟨pair h l, false⟩, u)) ∧
    (∀ l t h u, memRead .read (zext16 z) s = .next (l, t) → memRead .read (zext16 (z + 1)) t = .next (h, u) →
      resolve (.izy z) s =
        .next (⟨pair h l + zext16 s.regs.y, decide (page (pair h l) ≠ page (pair h l + zext16 s.regs.y))⟩, u))) ∧
  (∀ (m : EaMode) (s : State), PointersPlain s m →
    ∃ t, resolve m s = .next (⟨plainEa s m, plainCrossed s m⟩, t) ∧ Quiet s t)

/-- R186, R187, R209, R92. The gated read advances read_sub, plus the page-crossing cycle where the opcode pays it
and the index crosses a page, and then reads; the gated write advances write_sub and then writes; each is one access
of its kind. Load of a byte of memory resolves its mode and then makes the gated read. Load of an immediate is the
byte itself and changes nothing. For every mode whose pointer bytes and effective address are plain memory Load
answers the byte of memory at the effective address. -/
def Obligations.OperandsOfPlainMemoryAreItsBytes : Prop :=
  ∀ (t : Timing) (s : State),
    (∀ r : Resolved, gatedRead t r s =
      memRead .read r.ea (advance (t.readSub + if t.penalty = true ∧ r.crossed = true then 1 else 0) s)) ∧
    (∀ (a : Address) (v : Byte), gatedWrite t a v s = memWrite a v (advance t.writeSub s)) ∧
    (∀ m, load t (.byte m) s = andThen (resolve m s) fun r => gatedRead t r.1 r.2) ∧
    (∀ b, load t (.imm b) s = .next (b, s)) ∧
    (∀ m, PointersPlain s m → route s.platform (plainEa s m) = .memory →
      ∃ u, load t (.byte m) s = .next (readByte s.mem (plainEa s m).toNat, u) ∧ Quiet s u)

/-- R189. For every instruction, outside an interrupt entry: when it completes, InstrCycles has grown by its base
cycles of Table 41-1, plus 1 exactly when its opcode pays the page-crossing penalty and its index crosses a page,
plus BranchExtra, plus what IOCycles has grown by. -/
def Obligations.InstructionCost : Prop :=
  ∀ (i : Instr) (s u : State), s.sched.inEntry = false → exec i s = .next u →
    ∃ c : Nat, u.sched.instr + s.sched.io = s.sched.instr + (timingOf i).base + c + u.sched.branch + u.sched.io ∧
      (operandOf i = none → c = 0) ∧ (∀ b, operandOf i = some (.imm b) → c = 0) ∧
      (∀ m r t, operandOf i = some (.byte m) → resolve m s = .next (r, t) →
        c = if (timingOf i).penalty = true ∧ r.crossed = true then 1 else 0)

/-- R32, R33, R34. When an instruction completes, A is unchanged unless it is LDA, PLA, TXA, TYA, ADC, SBC, AND,
ORA, EOR or an accumulator-form shift; X unless it is LDX, TAX, TSX, INX or DEX; Y unless it is LDY, TAY, INY or
DEY; S unless it is TXS or an instruction that pushes or pops. The readers and the reset values that the cited rules
also list are in the statements about the instructions and about reset. -/
def Obligations.RegistersHaveTheirWriters : Prop :=
  ∀ (i : Instr) (s u : State), exec i s = .next u →
    (u.regs.a = s.regs.a ∨ i.mnemonic ∈ [.lda, .pla, .txa, .tya, .adc, .sbc, .and, .ora, .eor] ∨ i.format = .acc) ∧
    (u.regs.x = s.regs.x ∨ i.mnemonic ∈ [.ldx, .tax, .tsx, .inx, .dex]) ∧
    (u.regs.y = s.regs.y ∨ i.mnemonic ∈ [.ldy, .tay, .iny, .dey]) ∧
    (u.regs.sp = s.regs.sp ∨ i.mnemonic ∈ [.txs, .pha, .php, .pla, .plp, .jsr, .rts, .brk, .rti])

/-- R37, R38, R39, R40, R41, R42, R43. When an instruction completes, each of C, Z, I, D, B, V and N is unchanged
unless the instruction is one that 10_state.md names as its writer. (The same rules also name the readers and the
reset values, which stand in other statements.) -/
def Obligations.FlagsHaveTheirWriters : Prop :=
  ∀ (i : Instr) (s u : State), exec i s = .next u →
    (u.regs.p.c = s.regs.p.c ∨
      i.mnemonic ∈ [.adc, .sbc, .cmp, .cpx, .cpy, .asl, .lsr, .rol, .ror, .clc, .sec, .plp, .rti]) ∧
    (u.regs.p.i = s.regs.p.i ∨ i.mnemonic ∈ [.sei, .cli, .plp, .rti, .brk]) ∧
    (u.regs.p.d = s.regs.p.d ∨ i.mnemonic ∈ [.sed, .cld, .plp, .rti]) ∧
    (u.regs.p.b = s.regs.p.b ∨ i.mnemonic ∈ [.plp, .rti]) ∧
    (u.regs.p.v = s.regs.p.v ∨ i.mnemonic ∈ [.adc, .sbc, .bit, .clv, .plp, .rti]) ∧
    ((u.regs.p.z = s.regs.p.z ∧ u.regs.p.n = s.regs.p.n) ∨
      i.mnemonic ∈ [.lda, .ldx, .ldy, .tax, .tay, .txa, .tya, .tsx, .adc, .sbc, .and, .ora, .eor, .bit, .cmp, .cpx,
        .cpy, .inc, .dec, .inx, .iny, .dex, .dey, .asl, .lsr, .rol, .ror, .pla, .plp, .rti])

/-- R375, R31. When an instruction completes, PC is unchanged since the fetch unless it is a branch, JMP, JSR, RTS,
BRK or RTI. That interrupt entry writes PC too is the statement about interrupt entry. -/
def Obligations.OnlyControlTransfersWriteThePc : Prop :=
  ∀ (i : Instr) (s u : State), exec i s = .next u →
    (u.regs.pc = s.regs.pc ∨
      i.mnemonic ∈ [.bpl, .bmi, .bvc, .bvs, .bcc, .bcs, .bne, .beq, .jmp, .jsr, .rts, .brk, .rti])

/-- R87, R88, 20_memory.md. When an instruction completes, every byte of memory is as before unless the instruction
is a store, a memory form of a read-modify-write instruction, PHA, PHP, JSR or BRK. -/
def Obligations.OnlyStoresWriteMemory : Prop :=
  ∀ (i : Instr) (s u : State), exec i s = .next u →
    (u.mem = s.mem ∨ (i.mnemonic ∈ [.asl, .lsr, .rol, .ror] ∧ i.format ≠ .acc) ∨
      i.mnemonic ∈ [.sta, .stx, .sty, .inc, .dec, .pha, .php, .jsr, .brk])

/-- R343, R54. When an instruction completes: if it is SEI, CLI or PLP, IJustSet says whether I went from 0 to 1 and
IJustCleared whether it went from 1 to 0; any other instruction, BRK and RTI among them, leaves both markers as they
are. That the markers are 0 at the start of each executeOne, that interrupt entry sets none and that the boundary
check reads them stand in the statements about the step, the entry and the service condition. -/
def Obligations.OnlyTrackedInstructionsSetTheMarkers : Prop :=
  ∀ (i : Instr) (s u : State), exec i s = .next u →
    (i.mnemonic ∈ [.sei, .cli, .plp] → u.irq.justSet = (!s.regs.p.i && u.regs.p.i) ∧
      u.irq.justCleared = (s.regs.p.i && !u.regs.p.i)) ∧
    (i.mnemonic ∉ [.sei, .cli, .plp] → u.irq.justSet = s.irq.justSet ∧ u.irq.justCleared = s.irq.justCleared)

/-- R405, R402, R485, R487. With both timers in supported modes, D clear and the stack bytes that the instruction
pushes plain memory, every one of the 151 instructions completes, in every form, for every operand and every
address. Neither an instruction nor a step answers a refusal, in any state. -/
def Obligations.EveryInstructionCompletes : Prop :=
  (∀ (i : Instr) (s : State), Supported s → s.regs.p.d = false → StackPlain 3 s → ∃ u, exec i s = .next u) ∧
  (∀ (i : Instr) (s : State) (r : Refusal), exec i s ≠ .refused r) ∧
  (∀ (s : State) (r : Refusal), step s ≠ .refused r)

/-- R110, R111, R112, R113, R207. For every well-formed instruction and every bytes after it, the decoder reads the
instruction from its encoding and leaves the bytes after it; the encoding has the length of the format. Conversely,
whenever the decoder reads an instruction from a list of bytes, the list is the encoding of that instruction
followed by the rest. -/
def Obligations.DecodeOfEncodeIsTheInstruction : Prop :=
  (∀ (i : Instr) (rest : List Byte), i.wellFormed = true →
    decode (encode i ++ rest) = .ok i rest ∧ (encode i).length = i.format.length) ∧
  (∀ (bs rest : List Byte) (i : Instr), decode bs = .ok i rest → bs = encode i ++ rest)

/-- R116. The decoder has no instruction for an opcode exactly when it is one of the 105 of R116; a list of bytes
that begins with such an opcode is rejected by name; and executing one raises UnimplementedOpcode with the opcode
and its address, once its fetch has left the block not faulted. -/
def Obligations.IllegalOpcodesAreExactlyTheListed : Prop :=
  (∀ op : Byte, shapeOf op = none ↔ op ∈ illegalOpcodes) ∧
  (∀ (op : Byte) (rest : List Byte), op ∈ illegalOpcodes → decode (op :: rest) = .illegalOpcode op) ∧
  (∀ (s t : State) (op : Byte), s.fault = none → op ∈ illegalOpcodes → fetch (beginInstr s) = .next (op, t) →
    t.fault = none → step s = .fault (.unimplementedOpcode op s.regs.pc))

/-- R113, R110, R112. One word of each family, written out from Table 30-2 and the formats of Table 30-1, decodes to
the instruction the table gives. That there are 151 instructions, each selected by its whole opcode byte, is the
statement about the illegal opcodes and the round trip. -/
def Obligations.EncodedWordsDecode : Prop :=
  decode [0b10101001, 0x41] = .ok (.ldaImm 0x41) [] ∧ decode [0b10001101, 0x00, 0x02] = .ok (.staAbs 0x0200) [] ∧
  decode [0b10101010] = .ok .tax [] ∧ decode [0b01110001, 0x80] = .ok (.adcIzy 0x80) [] ∧
  decode [0b00111110, 0xFF, 0x12] = .ok (.rolAbx 0x12FF) [] ∧ decode [0b00101000] = .ok .plp [] ∧
  decode [0b11010000, 0xFE] = .ok (.bne 0xFE) [] ∧ decode [0b01101100, 0xFF, 0x10] = .ok (.jmpInd 0x10FF) [] ∧
  decode [0b00000000] = .ok .brk [] ∧ decode [0b10110110, 0x10] = .ok (.ldxZpy 0x10) []

/-- R180, R182, R183, R184, R185, R199, R110, R112. At the start InstrCycles, IOCycles, BranchExtra, EntryCycles and
both I markers are cleared, and nothing else. In a block that is not faulted, whenever the fetch from there yields
an instruction, the step is exec of it; then InstrCycles is added to TotalCycles with the wrap check, and the
boundary check is made of that state. If the block then is not faulted the step answers that state, and executeOne
answers Ok of InstrCycles plus EntryCycles, the entry's being 0 where the boundary took none. A fault that the
environment has set meanwhile, and a raise of the fetch, the instruction or the boundary, is the answer of both, and
the block is faulted. (What executeOne leaves besides the fault is any state, log 5; EntryCycles as a field is the
model's choice, log 17.) Where the three addresses at PC are plain memory with no fetch wait and their bytes decode
to an instruction, the fetch yields exactly that instruction, with PC past its bytes, and nothing else changed but
that the environment has been told of the reads, in order. -/
def Obligations.StepRunsTheDecodedInstruction : Prop :=
  (∀ s : State, beginInstr s =
    { s with
      sched := { s.sched with instr := 0, io := 0, branch := 0, entry := 0, inEntry := false }
      irq := { s.irq with justSet := false, justCleared := false } }) ∧
  (∀ (s left : State) (e : Fault), s.fault = none → fetchInstr (beginInstr s) = .fault e →
    step s = .fault e ∧ executeOne left s = ⟨.err e, { left with fault := some e }⟩) ∧
  (∀ (s t left : State) (i : Instr), s.fault = none → fetchInstr (beginInstr s) = .next (i, t) →
    step s = andThen (exec i t) complete ∧
    (∀ e, exec i t = .fault e →
      step s = .fault e ∧ executeOne left s = ⟨.err e, { left with fault := some e }⟩) ∧
    (∀ u e, exec i t = .next u → interruptBoundary (addTotal u.sched.instr u) = .fault e →
      step s = .fault e ∧ executeOne left s = ⟨.err e, { left with fault := some e }⟩) ∧
    (∀ u x e, exec i t = .next u → interruptBoundary (addTotal u.sched.instr u) = .next x → x.fault = some e →
      step s = .fault e ∧ executeOne left s = ⟨.err e, { left with fault := some e }⟩) ∧
    (∀ u x, exec i t = .next u → interruptBoundary (addTotal u.sched.instr u) = .next x → x.fault = none →
      step s = .next x ∧ executeOne left s = ⟨.ok (u.sched.instr + x.sched.entry), x⟩ ∧
      (serviceCondition (markDue (addTotal u.sched.instr u)) = false ∨ u.irq.status = 0 → x.sched.entry = 0))) ∧
  (∀ (s : State) (i : Instr) (rest : List Byte), s.fault = none →
    (∀ k : Nat, k < 3 → route s.platform (s.regs.pc + BitVec.ofNat 16 k) = .memory ∧
      waitIn (s.regs.pc + BitVec.ofNat 16 k) .fetch s.platform.ioWait = 0) →
    decode [readByte s.mem s.regs.pc.toNat, readByte s.mem (s.regs.pc + 1).toNat,
      readByte s.mem (s.regs.pc + 2).toNat] = .ok i rest →
    fetchInstr (beginInstr s) =
      .next (i,
        { beginInstr s with
          regs := { s.regs with pc := s.regs.pc + BitVec.ofNat 16 i.format.length }
          ext := { s.ext with
            history := ((List.range i.format.length).reverse.map fun k =>
              ExtRecord.read (s.regs.pc + BitVec.ofNat 16 k)) ++ s.ext.history } }))

/-- R181. In a block whose Fault is not none, executeOne returns that fault and leaves the state as it is, and so
does every interface of the block; the step stops with the same fault. Only reset leaves the faulted state: it
answers a block that is not faulted. -/
def Obligations.FaultedBlockStaysFaulted : Prop :=
  ∀ (s left : State) (e : Fault), s.fault = some e →
    step s = .fault e ∧ executeOne left s = ⟨.err e, s⟩ ∧
    (∀ id, setInterruptSourceBit id s = ⟨.err e, s⟩ ∧ clearInterruptSourceBit id s = ⟨.err e, s⟩) ∧
    interruptStatus s = ⟨.err e, s⟩ ∧ totalCycles s = ⟨.err e, s⟩ ∧ clearTrigger s = ⟨.err e, s⟩ ∧
    (∀ d t, scheduleTrigger d s = ⟨.err e, s⟩ ∧ rescheduleTrigger d t s = ⟨.err e, s⟩) ∧
    (∀ n off v, timerReadCall n off s = ⟨.err e, s⟩ ∧ timerWriteCall n off v s = ⟨.err e, s⟩) ∧
    (∃ t, resetPort s = .next t ∧ t.fault = none)

/-- R493, R418, R412, R404. From every state that meets the invariant, and not only from reset, a step that answers
a next state answers one that meets it: memory in canonical form, IntStatus bits 0 and 1 equal to the lines of the
two timers, the NMI slot clear, a due request with a countdown, no interrupt entry running, and no fault. The step
leaves a request due only while some source is set, and it never changes the platform parameters. (That those are a
field of the state is the model's choice, log 3.) -/
def Obligations.StepKeepsTheInvariant : Prop :=
  ∀ s t : State, Inv s → step s = .next t → Inv t ∧ t.platform = s.platform ∧
    (t.irq.due = true → t.irq.status ≠ 0)

/-- R510, R499, R97. Whatever image the memory holds at launch, in the canonical form that lists it, the state after
reset at power-up meets the invariant that every step keeps; and so does the model's own reset state, the launch
with nothing listed (log 1, a choice of the model). -/
def Obligations.ResetMeetsTheInvariant : Prop :=
  (∀ image : List Host.Cell, Memory.wf image = true → Inv (State.launch image)) ∧ Inv State.reset

/-- R92, R81, R97. For a memory in canonical form, a write of a byte leaves the canonical form, is read back at its
address, and leaves every other address as it was; and two memories in canonical form that read alike at every
address are equal. Every image, whatever its 65536 bytes, is the memory of exactly one such list, so that a claim
about every list is a claim about every image. -/
def Obligations.MemoryReadsTheLastWrite : Prop :=
  (∀ (m : List Host.Cell) (a : Address) (v : Byte), Memory.wf m = true →
    Memory.wf (writeByte m a.toNat v) = true ∧ readByte (writeByte m a.toNat v) a.toNat = v ∧
    ∀ c : Nat, c ≠ a.toNat → readByte (writeByte m a.toNat v) c = readByte m c) ∧
  (∀ m n : List Host.Cell, Memory.wf m = true → Memory.wf n = true →
    (∀ a : Address, readByte m a.toNat = readByte n a.toNat) → m = n) ∧
  (∀ image : Address → Byte, ∃ m : List Host.Cell, Memory.wf m = true ∧ ∀ a : Address, readByte m a.toNat = image a)

/-- R86, R82, R80. A bus read or write, wherever it is routed, is followed by an advance of the wait that the
platform gives its address and kind, which is added to IOCycles. A read or write of plain memory waits likewise:
outside an interrupt entry InstrCycles and IOCycles both grow by exactly that wait. On a platform with no wait rules
no access waits, as on the reference platform. -/
def Obligations.BusAccessesWait : Prop :=
  (∀ (k : AccessKind) (a : Address) (s : State),
    memRead k a s = andThen (busRead a s) fun r =>
      .next (r.1, { advance (waitIn a k r.2.platform.ioWait) r.2 with
        sched := { (advance (waitIn a k r.2.platform.ioWait) r.2).sched with
          io := (advance (waitIn a k r.2.platform.ioWait) r.2).sched.io + waitIn a k r.2.platform.ioWait } })) ∧
  (∀ (a : Address) (v : Byte) (s : State),
    memWrite a v s = andThen (busWrite a v s) fun t =>
      .next { advance (waitIn a .write t.platform.ioWait) t with
        sched := { (advance (waitIn a .write t.platform.ioWait) t).sched with
          io := (advance (waitIn a .write t.platform.ioWait) t).sched.io + waitIn a .write t.platform.ioWait } }) ∧
  (∀ (k : AccessKind) (a : Address) (s : State), route s.platform a = .memory → s.sched.inEntry = false →
    ∃ t, memRead k a s = .next (readByte s.mem a.toNat, t) ∧ Quiet s t ∧
      t.sched.io = s.sched.io + waitIn a k s.platform.ioWait ∧
      t.sched.instr = s.sched.instr + waitIn a k s.platform.ioWait) ∧
  (∀ (a : Address) (v : Byte) (s : State), route s.platform a = .memory → s.sched.inEntry = false →
    ∃ t, memWrite a v s = .next t ∧ Steady s t ∧ t.mem = writeByte s.mem a.toNat v ∧
      t.sched.io = s.sched.io + waitIn a .write s.platform.ioWait ∧
      t.sched.instr = s.sched.instr + waitIn a .write s.platform.ioWait) ∧
  (∀ (k : AccessKind) (a : Address), waitIn a k platformP0.ioWait = 0)

/-- R82, R83, R80, R97. On every well-formed platform, an access within 15 of a window's base reaches that timer's
register at the distance, and an access in neither window reaches no timer register; a well-formed platform has no
window above 0xFFF0 and no two windows that overlap. On any platform an access routed to a timer is its register
access; every other one is recorded in the history of the environment, a read of plain memory answering its byte, a
write of it storing one, and a read of a device answering what the environment has for that address, given the
history so far and its free choice. (Which addresses are plain memory and which reach a device is a field of the
platform, log 2.) -/
def Obligations.AddressesAreRouted : Prop :=
  (∀ (p : Platform) (a : Address), p.wellFormed = true →
    (∀ b : Address, p.timerBase0 = some b → b.toNat ≤ a.toNat → a.toNat ≤ b.toNat + 15 →
      route p a = .timer .t0 (a.toNat - b.toNat)) ∧
    (∀ b : Address, p.timerBase1 = some b → b.toNat ≤ a.toNat → a.toNat ≤ b.toNat + 15 →
      route p a = .timer .t1 (a.toNat - b.toNat)) ∧
    ((∀ b : Address, p.timerBase0 = some b ∨ p.timerBase1 = some b → a.toNat < b.toNat ∨ b.toNat + 15 < a.toNat) →
      ∀ i off, route p a ≠ .timer i off) ∧
    (∀ b : Address, p.timerBase0 = some b ∨ p.timerBase1 = some b → b.toNat ≤ 0xFFF0) ∧
    (∀ b c : Address, p.timerBase0 = some b → p.timerBase1 = some c →
      b.toNat + 15 < c.toNat ∨ c.toNat + 15 < b.toNat)) ∧
  (∀ (a : Address) (v : Byte) (s : State),
    let told (r : ExtRecord) : State := { s with ext := { s.ext with history := r :: s.ext.history } }
    (∀ i off, route s.platform a = .timer i off →
      busRead a s = timerRead i off s ∧ busWrite a v s = timerWrite i off v s) ∧
    (route s.platform a = .device →
      busRead a s = .next (Config.extByte s.ext.choice s.ext.history a, told (.read a)) ∧
      busWrite a v s = .next (told (.write a v))) ∧
    (route s.platform a = .memory →
      busRead a s = .next (readByte s.mem a.toNat, told (.read a)) ∧
      busWrite a v s = .next { told (.write a v) with mem := writeByte s.mem a.toNat v }))

/-- R143, R144, R145, R146. In a canonical memory with the stack bytes plain memory: what Push pushed, Pop pulls,
what Push16 pushed, Pop16 pulls, and the stack pointer is back where it was, even across the wrap at the ends of
page 1. -/
def Obligations.PushAndPopAreInverse : Prop :=
  (∀ (v : Byte) (s t : State), Memory.wf s.mem = true → StackPlain 1 s → push v s = .next t →
    ∃ u, pop t = .next (v, u) ∧ u.regs = s.regs ∧ u.mem = t.mem) ∧
  (∀ (w : Address) (s t : State), Memory.wf s.mem = true → StackPlain 2 s → push16 w s = .next t →
    ∃ u, pop16 t = .next (w, u) ∧ u.regs = s.regs ∧ u.mem = t.mem)

/-- R196, R197, R470. Advance(0) changes nothing. Advance(n) for n > 0 adds n to InstrCycles (to EntryCycles during
an interrupt entry), takes a countdown that is not IDLE down by n, advances timer 0 and then timer 1, each T1 before
T2, and hands n to the environment, which records it and then does the next events of its script, if any are left;
it changes no register and no memory, and reads none: with other registers and another memory it does the same to
the rest. (The script is the model's form of what the environment may do, log 6.) -/
def Obligations.AdvanceMovesTime : Prop :=
  ∀ s : State, advance 0 s = s ∧
    ∀ n : Nat, 0 < n →
      advance n s = extAdvance n (timerAdvance .t1 n (timerAdvance .t0 n
        { s with
          sched := (if s.sched.inEntry then { s.sched with entry := s.sched.entry + n }
            else { s.sched with instr := s.sched.instr + n })
          irq := { s.irq with countdown := s.irq.countdown.map (fun k => k - (n : Int)) } })) ∧
      Quiet s (advance n s) ∧
      (∀ (r : Regs) (m : List Host.Cell),
        advance n { s with regs := r, mem := m } = { advance n s with regs := r, mem := m }) ∧
      (∀ i t, timerAdvance i n t = t2Poll i (t1Poll i (t.setVia i ((t.via i).count n)))) ∧
      (∀ t : State,
        let told : Ext := { t.ext with history := .advanced n :: t.ext.history }
        (t.ext.script = [] → extAdvance n t = { t with ext := told }) ∧
        (∀ now later, t.ext.script = now :: later →
          extAdvance n t = extEvents now { t with ext := { told with script := later } }))

/-- R199, R200, R201. An increase of TotalCycles by n leaves total + n when that does not exceed the threshold, with
nothing else changed; otherwise it leaves total + n - CYCLE_WRAP, every trigger the environment holds is replaced by
itself minus CYCLE_WRAP, NEVER staying NEVER, and the wrap is handed to the environment, in its history. While the
increase and the old total are each at most the threshold, the new total is at most the threshold. -/
def Obligations.TotalCyclesWrap : Prop :=
  ∀ (n : Nat) (s : State),
    (s.sched.total + n ≤ s.platform.cycleWrap →
      addTotal n s = { s with sched := { s.sched with total := s.sched.total + n } }) ∧
    (s.platform.cycleWrap < s.sched.total + n →
      addTotal n s =
        { s with
          sched := { s.sched with total := s.sched.total + n - s.platform.cycleWrap }
          ext := { s.ext with
            triggers := s.ext.triggers.map (Option.map (fun t => t - (s.platform.cycleWrap : Int)))
            history := .wrapped s.platform.cycleWrap :: s.ext.history } }) ∧
    (s.sched.total ≤ s.platform.cycleWrap → n ≤ s.platform.cycleWrap →
      (addTotal n s).sched.total ≤ s.platform.cycleWrap)

/-- R202, R203, R204. In a block that is not faulted: scheduleTrigger returns TotalCycles + delay, rescheduleTrigger
returns previous + delay, clearTrigger returns NEVER, and none changes the state; rescheduleTrigger of NEVER raises
ContractViolation(RescheduleNever), which faults the block and changes nothing else; a trigger is due exactly when
it is a timestamp at most TotalCycles, and NEVER is never due. -/
def Obligations.TriggersAreTimestamps : Prop :=
  ∀ (d t : Int) (s : State), s.fault = none →
    scheduleTrigger d s = ⟨.ok (some (s.sched.total + d)), s⟩ ∧
    rescheduleTrigger d (some t) s = ⟨.ok (some (t + d)), s⟩ ∧
    clearTrigger s = ⟨.ok none, s⟩ ∧
    rescheduleTrigger d none s = ⟨.err .contractRescheduleNever, { s with fault := some .contractRescheduleNever }⟩ ∧
    (triggerDue (some t) s = true ↔ t ≤ s.sched.total) ∧ triggerDue none s = false

/-- R410. In a block that is not faulted: for an id in 2..6 setting (clearing) the source makes that bit of
IntStatus 1 (0) and leaves every other bit; for any other id the call raises ContractViolation(SourceId), which
faults the block and changes nothing else; interruptStatus returns all 8 bits. -/
def Obligations.InterruptPortAcceptsExternalSources : Prop :=
  ∀ (id : Nat) (s : State), s.fault = none →
    (2 ≤ id ∧ id ≤ 6 → ∃ v w : Byte,
      setInterruptSourceBit id s = ⟨.ok (), { s with irq := { s.irq with status := v } }⟩ ∧
      clearInterruptSourceBit id s = ⟨.ok (), { s with irq := { s.irq with status := w } }⟩ ∧
      ∀ k : Nat, v.getLsbD k = (decide (k = id) || s.irq.status.getLsbD k) ∧
        w.getLsbD k = (!decide (k = id) && s.irq.status.getLsbD k)) ∧
    (¬(2 ≤ id ∧ id ≤ 6) →
      setInterruptSourceBit id s = ⟨.err (.contractSourceId id), { s with fault := some (.contractSourceId id) }⟩ ∧
      clearInterruptSourceBit id s = ⟨.err (.contractSourceId id), { s with fault := some (.contractSourceId id) }⟩) ∧
    interruptStatus s = ⟨.ok s.irq.status, s⟩

/-- R412, R414. At a boundary with IntStatus = 0 the due flag is cleared, the countdown becomes IDLE and nothing
else happens. Otherwise the request is marked due if it was not, an IDLE countdown then becoming 0, and interrupt
entry runs exactly when I is clear or was set by this instruction, the countdown is at most -2 minus IOCycles, and I
was not cleared by this instruction; if it does not run nothing else happens. -/
def Obligations.BoundaryFollowsTheServiceCondition : Prop :=
  ∀ s : State,
    (s.irq.status = 0 → interruptBoundary s = .next { s with irq := { s.irq with due := false, countdown := none } }) ∧
    (s.irq.status ≠ 0 → ∀ m : State,
      m = (if s.irq.due then s
        else { s with irq := { s.irq with due := true, countdown := some (s.irq.countdown.getD 0) } }) →
      ((m.regs.p.i = false ∨ m.irq.justSet = true) ∧ (∃ k, m.irq.countdown = some k ∧ k ≤ -2 - (m.sched.io : Int)) ∧
          m.irq.justCleared = false →
        interruptBoundary s = irqEntry m) ∧
      (¬((m.regs.p.i = false ∨ m.irq.justSet = true) ∧
          (∃ k, m.irq.countdown = some k ∧ k ≤ -2 - (m.sched.io : Int)) ∧ m.irq.justCleared = false) →
        interruptBoundary s = .next m))

/-- R415, R374, R36. Interrupt entry clears EntryCycles and the due flag and makes the countdown IDLE, takes the
exception, advances 7 cycles and adds EntryCycles to TotalCycles with the wrap check. With both timers in supported
modes and the three stack bytes plain memory, interrupt entry completes: PC is pushed, high byte first, and then the
status with bit 4 clear and bit 5 set; S goes down by 3; I is set and no other flag or register but PC changes; PC
is the word of the vector at 0xFFFE; the due flag is cleared and no I marker is set; the countdown is IDLE where
neither timer has T1 or T2 enabled, so that none can claim it during the entry; every other byte of memory reads as
before; EntryCycles is 7 where no access waits, and always 7 plus what IOCycles has grown by, and TotalCycles grows
by EntryCycles, less the threshold if it then exceeds it. (That IOCycles grows during an entry is the model's
choice, log 8, and no rule of the spec; EntryCycles as a field is log 17.) -/
def Obligations.InterruptEntryTakesTheException : Prop :=
  (∀ s : State, irqEntry s =
    andThen (takeException s.regs.pc false
      { s with
        sched := { s.sched with entry := 0, inEntry := true }
        irq := { s.irq with due := false, countdown := none } }) fun t =>
      let v := advance 7 t
      .next { addTotal v.sched.entry v with
        sched := { (addTotal v.sched.entry v).sched with inEntry := false } }) ∧
  ∀ s : State, Supported s → StackPlain 3 s → ∃ u w, irqEntry s = .next u ∧
    u.regs = { s.regs with pc := w, sp := s.regs.sp - 3, p := { s.regs.p with i := true } } ∧
    u.irq.due = false ∧ u.irq.justSet = s.irq.justSet ∧ u.irq.justCleared = s.irq.justCleared ∧
    u.sched.instr = s.sched.instr ∧
    (s.via0.ier &&& 0x60 = 0 → s.via1.ier &&& 0x60 = 0 → u.irq.countdown = none) ∧
    (s.platform.ioWait = [] → u.sched.entry = 7) ∧
    PushesFrame s u s.regs.pc (packP false s.regs.p) ∧
    (∀ l h, MemoryByte s 0xFFFE l → MemoryByte s 0xFFFF h → w = pair h l) ∧
    u.sched.entry + s.sched.io = 7 + u.sched.io ∧ u.sched.total = (addTotal u.sched.entry s).sched.total

/-- R414, R417, R521. When a step ends with an interrupt entry (EntryCycles is not 0), the instruction of that step
left I clear or set it itself, and did not clear it itself. So a step whose instruction begins and ends with I set
takes no interrupt. -/
def Obligations.MaskedBlockTakesNoInterrupt : Prop :=
  ∀ (s t u x : State) (i : Instr), s.fault = none → fetchInstr (beginInstr s) = .next (i, t) → exec i t = .next u →
    step s = .next x → x.sched.entry ≠ 0 →
    (u.regs.p.i = false ∨ u.irq.justSet = true) ∧ u.irq.justCleared = false ∧
    ¬(t.regs.p.i = true ∧ u.regs.p.i = true)

/-- R461, R462. For each of the two timers: reads of offsets 2, 3, 5, 6, 7, 9, 11, 12, 13, 14 and 15 return the
register as R461 gives it (a counter through view, IFR with its summary bit, IER with bit 7 set, the port byte) and
change nothing; reads of offsets 4 and 8 return the low byte of the counter and clear IFR bit 6 and 5; offset 10, in
the supported mode, returns SR and clears IFR bit 2; offsets 0 and 1, in the supported modes, return the port byte
and clear the control-line flags; each clearing is followed by the line update. An offset above 15 raises
ContractViolation(TimerOffset). (The modes that fail are in their own statement.) -/
def Obligations.TimerRegistersRead : Prop :=
  ∀ (i : TimerId) (s : State),
    let v := s.via i
    let clr (m : BitVec 7) : State := lineUpdate i (s.setVia i { v with ifr := v.ifr &&& ~~~m })
    let inA : Byte := (v.ora &&& v.ddra) ||| (s.ext.pins i .a &&& ~~~v.ddra)
    let inB : Byte := (v.orb &&& v.ddrb) ||| (s.ext.pins i .b &&& ~~~v.ddrb)
    (¬(v.cb2Control = 4 ∨ v.cb2Control = 5) → timerRead i 0 s =
      .next (if v.acr.getLsbD 7 then (if v.t1Out then inB ||| 0x80 else inB &&& 0x7F) else inB,
        clr (if v.cb2Control = 1 ∨ v.cb2Control = 3 then 0x10 else 0x18))) ∧
    (¬(v.ca2Control = 4 ∨ v.ca2Control = 5) → timerRead i 1 s =
      .next (inA, clr (if v.ca2Control = 1 ∨ v.ca2Control = 3 then 0x02 else 0x03))) ∧
    timerRead i 2 s = .next (v.ddrb, s) ∧ timerRead i 3 s = .next (v.ddra, s) ∧
    timerRead i 4 s = .next (lo (BitVec.ofInt 16 (v.t1c / 2)), clr 0x40) ∧
    timerRead i 5 s = .next (hi (BitVec.ofInt 16 (v.t1c / 2)), s) ∧
    timerRead i 6 s = .next (lo v.t1l, s) ∧ timerRead i 7 s = .next (hi v.t1l, s) ∧
    timerRead i 8 s = .next (lo (BitVec.ofInt 16 (v.t2c / 2)), clr 0x20) ∧
    timerRead i 9 s = .next (hi (BitVec.ofInt 16 (v.t2c / 2)), s) ∧
    (v.shiftMode = 0 → timerRead i 10 s = .next (v.sr, clr 0x04)) ∧ timerRead i 11 s = .next (v.acr, s) ∧
    timerRead i 12 s = .next (v.pcr, s) ∧
    (∃ b, timerRead i 13 s = .next (b, s) ∧ b.setWidth 7 = v.ifr ∧ b.getLsbD 7 = decide (v.ifr &&& v.ier ≠ 0)) ∧
    (∃ b, timerRead i 14 s = .next (b, s) ∧ b.setWidth 7 = v.ier ∧ b.getLsbD 7 = true) ∧
    timerRead i 15 s = .next (inA, s) ∧
    (∀ off : Nat, 15 < off → s.fault = none →
      timerRead i off s = .fault (.contractTimerOffset (timerNumber i) off))

/-- R465, R466, R467, R468, R469. For each of the two timers: writes of offsets 2, 3, 11, 12 and 15 store the byte;
offsets 4, 6 and 8 write a latch's low byte only; offset 7 writes T1's latch high byte and clears IFR bit 6 without
a load; offset 5 writes the high byte and loads T1: the counter is twice the latch plus 1, the fired flag and IFR
bit 6 are clear, and T1Out is forced low when ACR bit 7 is set; offset 9 does the same for T2 and IFR bit 5, which
has no output; offset 13 clears exactly the IFR bits set in the byte; offset 14 sets or clears the enable bits by
bit 7 of the byte; offset 10, in the supported mode, stores SR and clears IFR bit 2; offsets 0 and 1, in the
supported modes, clear the control-line flags and store the output register; every change of IFR or IER is followed
by the line update. An offset above 15 raises ContractViolation(TimerOffset). (The modes that fail are in their own
statement.) -/
def Obligations.TimerRegistersWrite : Prop :=
  ∀ (i : TimerId) (v : Byte) (s : State),
    let x := s.via i
    let put (y : Via) : State := s.setVia i y
    let putLine (y : Via) : State := lineUpdate i (s.setVia i y)
    (¬(x.cb2Control = 4 ∨ x.cb2Control = 5) → timerWrite i 0 v s = .next (putLine { x with
      ifr := x.ifr &&& ~~~(if x.cb2Control = 1 ∨ x.cb2Control = 3 then 0x10 else 0x18), orb := v })) ∧
    (¬(x.ca2Control = 4 ∨ x.ca2Control = 5) → timerWrite i 1 v s = .next (putLine { x with
      ifr := x.ifr &&& ~~~(if x.ca2Control = 1 ∨ x.ca2Control = 3 then 0x02 else 0x03), ora := v })) ∧
    timerWrite i 2 v s = .next (put { x with ddrb := v }) ∧
    timerWrite i 3 v s = .next (put { x with ddra := v }) ∧
    timerWrite i 4 v s = .next (put { x with t1l := pair (hi x.t1l) v }) ∧
    timerWrite i 5 v s = .next (putLine { x with
      t1l := pair v (lo x.t1l), t1c := 2 * ((pair v (lo x.t1l)).toNat : Int) + 1, t1Fired := false,
      ifr := x.ifr &&& 0x3F, t1Out := x.t1Out && !x.acr.getLsbD 7 }) ∧
    timerWrite i 6 v s = .next (put { x with t1l := pair (hi x.t1l) v }) ∧
    timerWrite i 7 v s = .next (putLine { x with t1l := pair v (lo x.t1l), ifr := x.ifr &&& 0x3F }) ∧
    timerWrite i 8 v s = .next (put { x with t2l := pair (hi x.t2l) v }) ∧
    timerWrite i 9 v s = .next (putLine { x with
      t2l := pair v (lo x.t2l), t2c := 2 * ((pair v (lo x.t2l)).toNat : Int) + 1, t2Fired := false,
      ifr := x.ifr &&& 0x5F }) ∧
    (x.shiftMode = 0 → timerWrite i 10 v s = .next (putLine { x with ifr := x.ifr &&& 0x7B, sr := v })) ∧
    timerWrite i 11 v s = .next (put { x with acr := v }) ∧
    timerWrite i 12 v s = .next (put { x with pcr := v }) ∧
    timerWrite i 13 v s = .next (putLine { x with ifr := x.ifr &&& ~~~v.setWidth 7 }) ∧
    timerWrite i 14 v s = .next (putLine { x with
      ier := if v.getLsbD 7 then x.ier ||| v.setWidth 7 else x.ier &&& ~~~v.setWidth 7 }) ∧
    timerWrite i 15 v s = .next (put { x with ora := v }) ∧
    (∀ off : Nat, 15 < off → s.fault = none →
      timerWrite i off v s = .fault (.contractTimerOffset (timerNumber i) off))

/-- R485, R487, R403. For each timer in a block that is not faulted: an access of offset 10 while ACR[4:2] is not 0
raises UnsupportedMode(ShiftRegister), an access of offset 1 while PCR[3:1] is 100 or 101, and of offset 0 while
PCR[7:5] is 100 or 101, raises UnsupportedMode(Handshake) with the timer and offset; the raise comes before any
change, since the access answers nothing else. Writing those modes into ACR or PCR is no error, and offset 15 never
raises. -/
def Obligations.UnsupportedTimerModesFail : Prop :=
  ∀ (i : TimerId) (v : Byte) (s : State), s.fault = none →
    ((s.via i).acr.extractLsb' 2 3 ≠ 0 →
      timerRead i 10 s = .fault (.unsupportedShiftRegister i 10) ∧
      timerWrite i 10 v s = .fault (.unsupportedShiftRegister i 10)) ∧
    ((s.via i).pcr.extractLsb' 1 3 = 4 ∨ (s.via i).pcr.extractLsb' 1 3 = 5 →
      timerRead i 1 s = .fault (.unsupportedHandshake i 1) ∧ timerWrite i 1 v s = .fault (.unsupportedHandshake i 1)) ∧
    ((s.via i).pcr.extractLsb' 5 3 = 4 ∨ (s.via i).pcr.extractLsb' 5 3 = 5 →
      timerRead i 0 s = .fault (.unsupportedHandshake i 0) ∧ timerWrite i 0 v s = .fault (.unsupportedHandshake i 0)) ∧
    (∃ t, timerWrite i 11 v s = .next t) ∧ (∃ t, timerWrite i 12 v s = .next t) ∧
    (∃ t, timerWrite i 15 v s = .next t) ∧ (∃ b t, timerRead i 15 s = .next (b, t))

/-- R476. In a poll of T1 whose counter is below -2 while its fired flag is clear or free-run is on: IFR bit 6 is
set, the line of the timer becomes whether any enabled flag is pending, T1Out toggles when ACR bit 7 is set, and an
IDLE countdown becomes 3 plus the counter when IER bit 6 is set, any other countdown staying; then, below -3 in
free-run, the counter grows by twice the latch plus 4 and the fired flag is clear, and otherwise the counter stays
and the fired flag is set. In a one-shot poll with the fired flag set, or with the counter at -2 or above, nothing
changes. -/
def Obligations.TimerOneExpires : Prop :=
  ∀ (i : TimerId) (s : State),
    (-2 ≤ (s.via i).t1c → t1Poll i s = s) ∧
    ((s.via i).t1Fired = true → (s.via i).acr.getLsbD 6 = false → t1Poll i s = s) ∧
    ((s.via i).t1c < -2 → ((s.via i).t1Fired = false ∨ (s.via i).acr.getLsbD 6 = true) →
      let v := s.via i
      let t := t1Poll i s
      t.regs = s.regs ∧ t.mem = s.mem ∧ t.sched = s.sched ∧ t.irq.due = s.irq.due ∧
      (t.via i).ifr = v.ifr ||| 0x40 ∧ (t.via i).t1Out = (v.t1Out != v.acr.getLsbD 7) ∧
      t.irq.status.getLsbD (timerNumber i) = decide ((v.ifr ||| 0x40) &&& v.ier ≠ 0) ∧
      t.irq.countdown =
        (if v.ier.getLsbD 6 = true ∧ s.irq.countdown = none then some (3 + v.t1c) else s.irq.countdown) ∧
      (t.via i).t1c =
        (if v.t1c < -3 ∧ v.acr.getLsbD 6 = true then v.t1c + 2 * (v.t1l.toNat : Int) + 4 else v.t1c) ∧
      (t.via i).t1Fired = !(decide (v.t1c < -3) && v.acr.getLsbD 6))

/-- R482. In a poll of T2: with the counter below -2 and the fired flag clear, IFR bit 5 is set, the line follows,
an IDLE countdown becomes 3 plus the counter when IER bit 5 is set, and the fired flag is set; with the fired flag
already set no flag, line or countdown changes; below -3 the counter grows by T2_WRAP_ADD and the fired flag stays;
at -2 or above nothing changes. (T2_WRAP_ADD is 0x20000, the spec's decision.) -/
def Obligations.TimerTwoExpiresOnce : Prop :=
  ∀ (i : TimerId) (s : State),
    (-2 ≤ (s.via i).t2c → t2Poll i s = s) ∧
    ((s.via i).t2c < -2 →
      let v := s.via i
      let t := t2Poll i s
      (t.via i).t2Fired = true ∧ (t.via i).t2c = (if v.t2c < -3 then v.t2c + t2WrapAdd else v.t2c) ∧
      (v.t2Fired = true → (t.via i).ifr = v.ifr ∧ t.irq = s.irq) ∧
      (v.t2Fired = false → (t.via i).ifr = v.ifr ||| 0x20 ∧
        t.irq.status.getLsbD (timerNumber i) = decide ((v.ifr ||| 0x20) &&& v.ier ≠ 0) ∧
        t.irq.countdown =
          (if v.ier.getLsbD 5 = true ∧ s.irq.countdown = none then some (3 + v.t2c) else s.irq.countdown)))

/-- R470, R457, R463. While neither counter of a timer goes below -2 (a T2 that counts pulses stays where it is),
advancing the timer by n takes n units from T1, and from T2 unless it counts pulses, and changes nothing else; and
what a program reads of a counter is its half, rounded down, modulo 65536, so that a counter loaded with latch L
reads L, and L - k after 2k cycles. (One unit for each cycle is the spec's decision, 90_conflicts.md C2.) -/
def Obligations.TimersCountCycles : Prop :=
  (∀ (i : TimerId) (n : Nat) (s : State), -2 ≤ (s.via i).t1c - n →
    -2 ≤ (if (s.via i).acr.getLsbD 5 then (s.via i).t2c else (s.via i).t2c - n) →
    timerAdvance i n s = s.setVia i { s.via i with
      t1c := (s.via i).t1c - n
      t2c := if (s.via i).acr.getLsbD 5 then (s.via i).t2c else (s.via i).t2c - n }) ∧
  (∀ (l : Address) (k : Nat), k ≤ l.toNat →
    view (2 * (l.toNat : Int) + 1 - 2 * k) = BitVec.ofNat 16 (l.toNat - k))

/-- R491, R490. An active transition of CA1 or CB1 sets IFR bit 1 or 4; one of CA2 or CB2 sets bit 0 or 3 in the
input modes only and nothing in an output mode; the line of the timer follows and no other field changes. CA2 (CB2)
is driven exactly in the fixed-level modes, at the level of PCR bit 1 (5). -/
def Obligations.ControlLinesSetFlags : Prop :=
  ∀ (i : TimerId) (s : State),
    signalControlLine i .ca1 s = updateVia i (fun v => { v with ifr := v.ifr ||| 0x02 }) s ∧
    signalControlLine i .cb1 s = updateVia i (fun v => { v with ifr := v.ifr ||| 0x10 }) s ∧
    signalControlLine i .ca2 s =
      updateVia i (fun v => { v with ifr := if v.pcr.getLsbD 3 then v.ifr else v.ifr ||| 0x01 }) s ∧
    signalControlLine i .cb2 s =
      updateVia i (fun v => { v with ifr := if v.pcr.getLsbD 7 then v.ifr else v.ifr ||| 0x08 }) s ∧
    (∀ v : Via, (v.ca2Out = some true ↔ v.ca2Control = 7) ∧ (v.ca2Out = some false ↔ v.ca2Control = 6) ∧
      (v.cb2Out = some true ↔ v.cb2Control = 7) ∧ (v.cb2Out = some false ↔ v.cb2Control = 6))

/-- R497. In a block that is not faulted, a direct call of the register interface with an offset above 15 or a timer
number other than 0 or 1 returns ContractViolation(TimerOffset) with both numbers, faults the block and changes
nothing else. Bus routing never makes such a call: an access that is routed to a timer has an offset of at most 15.
-/
def Obligations.DirectTimerCallsCheckTheirArguments : Prop :=
  (∀ (n off : Nat) (v : Byte) (s : State), s.fault = none → (15 < off ∨ 1 < n) →
    timerReadCall n off s =
      ⟨.err (.contractTimerOffset n off), { s with fault := some (.contractTimerOffset n off) }⟩ ∧
    timerWriteCall n off v s =
      ⟨.err (.contractTimerOffset n off), { s with fault := some (.contractTimerOffset n off) }⟩) ∧
  (∀ (p : Platform) (a : Address) (i : TimerId) (off : Nat), route p a = .timer i off → off ≤ 15)

/-- R510, R511, R58, R499. From every state, faulted or not, reset answers a block that is not faulted: A, X, Y 0, S
0xFF, I set and the other flags clear; every cycle counter, the countdown, the due flag and the markers cleared;
both timers at their reset values, whatever the vector reads reach; IntStatus bits 0 and 1 clear and bits 2 to 7 as
before; memory and platform unchanged. Where the reset vector is plain memory PC is the little-endian word at
0xFFFC, and the environment has been told of the two reads, low byte first, and is otherwise unchanged. -/
def Obligations.ResetReinitialisesTheBlock : Prop :=
  ∀ s : State, ∃ t, resetPort s = .next t ∧ t.fault = none ∧
    t.regs =
      { a := 0, x := 0, y := 0, sp := 0xFF, pc := t.regs.pc,
        p := { c := false, z := false, i := true, d := false, b := false, v := false, n := false } } ∧
    t.sched = { total := 0, instr := 0, io := 0, branch := 0, entry := 0, inEntry := false } ∧
    t.irq.countdown = none ∧ t.irq.due = false ∧ t.irq.justSet = false ∧ t.irq.justCleared = false ∧
    t.irq.status.getLsbD 0 = false ∧ t.irq.status.getLsbD 1 = false ∧
    (∀ k : Nat, 2 ≤ k → t.irq.status.getLsbD k = s.irq.status.getLsbD k) ∧ t.mem = s.mem ∧ t.platform = s.platform ∧
    t.via0 = viaAfterReset ∧ t.via1 = viaAfterReset ∧
    (∀ l h, MemoryByte s 0xFFFC l → MemoryByte s 0xFFFD h →
      t.regs.pc = pair h l ∧
      t.ext = { s.ext with history := .read 0xFFFD :: .read 0xFFFC :: s.ext.history })

/-- R510, R511, R512, R58, R97, 70_reset_and_hazards.md. From every state with IntStatus 0, on the reference
platform with its environment and with any launch image in memory, reset answers the launch state of that image: its
memory is the image, PC the word of the image at 0xFFFC, and all sixteen fields of each timer hold the values of
R58. The model's own reset state is the launch with nothing listed, so its PC is 0. (Nothing listed, and that such a
byte reads 0, are the model's choice, log 1.) -/
def Obligations.ResetStateIsResetAtPowerUp : Prop :=
  (∀ (image : List Host.Cell) (s : State), s.irq.status = 0 → s.mem = image → s.platform = platformP0 →
    s.ext = extP0 → resetPort s = .next (State.launch image)) ∧
  (∀ image : List Host.Cell, (State.launch image).mem = image ∧
    (State.launch image).regs.pc = pair (readByte image 0xFFFD) (readByte image 0xFFFC) ∧
    (State.launch image).via0 = viaAfterReset ∧ (State.launch image).via1 = viaAfterReset) ∧
  viaAfterReset =
    { t1c := 0x1FFFF, t2c := 0x1FFFF, t1l := 0xFFFF, t2l := 0xFFFF, t1Fired := false, t2Fired := false,
      acr := 0, pcr := 0, ifr := 0, ier := 0, ora := 0, orb := 0, ddra := 0, ddrb := 0, sr := 0, t1Out := false } ∧
  State.reset = State.launch [] ∧ State.reset.regs.pc = 0

/-- R276, R261, R262. For every accumulator, operand and carry: ADC sets C exactly when the unsigned sum is at least
256 and V exactly when the signed sum is outside -128 to 127; SBC sets C exactly when no borrow occurs and V exactly
when the signed difference is outside that range; a comparison sets C exactly when no borrow occurs; neither INC,
DEC nor a comparison touches V; and SBC of an operand is ADC of its complement, result and flags. -/
def Obligations.OverflowIsSignedOverflow : Prop :=
  ∀ (a m : Byte) (p : Flags),
    (adcFlags a m p).c = decide (256 ≤ a.toNat + m.toNat + p.c.toNat) ∧
    (adcFlags a m p).v = decide (a.toInt + m.toInt + p.c.toNat < -128 ∨ 127 < a.toInt + m.toInt + p.c.toNat) ∧
    (sbcFlags a m p).c = decide (m.toNat + (1 - p.c.toNat) ≤ a.toNat) ∧
    (sbcFlags a m p).v =
      decide (a.toInt - m.toInt - (1 - p.c.toNat) < -128 ∨ 127 < a.toInt - m.toInt - (1 - p.c.toNat)) ∧
    (compareFlags a m p).c = decide (m.toNat ≤ a.toNat) ∧ (compareFlags a m p).v = p.v ∧
    (incResult m p).2.v = p.v ∧ (incResult m p).2.c = p.c ∧ (decResult m p).2.v = p.v ∧ (decResult m p).2.c = p.c ∧
    sbcResult a m p.c = adcResult a (~~~m) p.c ∧ sbcFlags a m p = adcFlags a (~~~m) p

/-- R36. PackP(b) has N, V, D, I, Z and C at bits 7, 6, 3, 2, 1 and 0, bit 4 equal to b and bit 5 set; UnpackP loads
the seven flags from their bits and ignores bit 5; so unpacking a packed status gives it back with B as pushed.
(Which instructions push which value of b is in the statements about PHP, BRK and interrupt entry; which use UnpackP
in those about PLP and RTI.) -/
def Obligations.StatusPacksAndUnpacks : Prop :=
  (∀ (b : Bool) (p : Flags),
    (packP b p).getLsbD 7 = p.n ∧ (packP b p).getLsbD 6 = p.v ∧ (packP b p).getLsbD 5 = true ∧
    (packP b p).getLsbD 4 = b ∧ (packP b p).getLsbD 3 = p.d ∧ (packP b p).getLsbD 2 = p.i ∧
    (packP b p).getLsbD 1 = p.z ∧ (packP b p).getLsbD 0 = p.c ∧ unpackP (packP b p) = { p with b := b }) ∧
  (∀ v : Byte,
    unpackP v =
      { c := v.getLsbD 0, z := v.getLsbD 1, i := v.getLsbD 2, d := v.getLsbD 3, b := v.getLsbD 4, v := v.getLsbD 6,
        n := v.getLsbD 7 } ∧
    unpackP (v ||| 0x20) = unpackP v)

/-- R524, R476, R470. For each of the two timers in one-shot mode, loaded with latch L, its flag and fired flag
clear: after advances of any lengths the flag and the fired flag are set exactly when the lengths add up to at least
2L + 4, and the counter is 2L + 1 less their sum. With the fired flag set, advances of any lengths leave the flag as
it is, so that a flag the program has cleared stays clear until a load. -/
def Obligations.OneShotTimerFiresOnce : Prop :=
  ∀ (i : TimerId) (s : State) (ns : List Nat), (s.via i).acr.getLsbD 6 = false →
    let v := s.via i
    let t := ns.foldl (fun u n => timerAdvance i n u) s
    (∀ l : Address, v.t1c = 2 * (l.toNat : Int) + 1 → v.t1Fired = false → v.ifr.getLsbD 6 = false →
      (t.via i).ifr.getLsbD 6 = decide (2 * l.toNat + 4 ≤ ns.sum) ∧
      (t.via i).t1Fired = decide (2 * l.toNat + 4 ≤ ns.sum) ∧
      (t.via i).t1c = 2 * (l.toNat : Int) + 1 - (ns.sum : Int)) ∧
    (v.t1Fired = true → (t.via i).ifr.getLsbD 6 = v.ifr.getLsbD 6 ∧ (t.via i).t1Fired = true)
end

