-- ==== Sys2Proof/Laws/Outcome.lean ====
section
/-! SUPPORT. The laws of `andThen`: what follows a next state, a fault and a refusal, and its inversion. -/

namespace Sys2Proof.Machine

variable {σ τ υ : Type}

@[simp] theorem andThen_next (x : σ) (k : σ → Host.Outcome τ Fault Refusal) :
    andThen (.next x : Host.Outcome σ Fault Refusal) k = k x := rfl

@[simp] theorem andThen_fault (e : Fault) (k : σ → Host.Outcome τ Fault Refusal) :
    andThen (.fault e : Host.Outcome σ Fault Refusal) k = .fault e := rfl

@[simp] theorem andThen_refused (r : Refusal) (k : σ → Host.Outcome τ Fault Refusal) :
    andThen (.refused r : Host.Outcome σ Fault Refusal) k = .refused r := rfl

@[simp] theorem andThen_raise (e : Fault) (s : State) (k : σ → Host.Outcome τ Fault Refusal) :
    andThen (raise e s : Host.Outcome σ Fault Refusal) k = raise e s := rfl

@[simp] theorem raise_ne_next (e : Fault) (s : State) (x : σ) :
    (raise e s : Host.Outcome σ Fault Refusal) ≠ .next x := by simp [raise]

/-- A sequence answers a next state exactly when both of its parts do. -/
theorem andThen_eq_next {o : Host.Outcome σ Fault Refusal} {k : σ → Host.Outcome τ Fault Refusal} {y : τ} :
    andThen o k = .next y ↔ ∃ x, o = .next x ∧ k x = .next y := by
  cases o <;> simp

theorem andThen_assoc (o : Host.Outcome σ Fault Refusal) (k : σ → Host.Outcome τ Fault Refusal)
    (l : τ → Host.Outcome υ Fault Refusal) :
    andThen (andThen o k) l = andThen o (fun x => andThen (k x) l) := by
  cases o <;> rfl

/-- An outcome is never a refusal. -/
def NeverRefuses (o : Host.Outcome σ Fault Refusal) : Prop := ∀ r, o ≠ .refused r

theorem neverRefuses_next (x : σ) : NeverRefuses (.next x : Host.Outcome σ Fault Refusal) := by simp [NeverRefuses]

theorem neverRefuses_raise (e : Fault) (s : State) :
    NeverRefuses (raise e s : Host.Outcome σ Fault Refusal) := by simp [NeverRefuses, raise]

theorem neverRefuses_andThen {o : Host.Outcome σ Fault Refusal} {k : σ → Host.Outcome τ Fault Refusal}
    (ho : NeverRefuses o) (hk : ∀ x, NeverRefuses (k x)) : NeverRefuses (andThen o k) := by
  intro r
  cases o with
  | next x => exact hk x r
  | fault e => simp
  | refused q => exact absurd rfl (ho q)

end Sys2Proof.Machine
end

