-- ==== Sys2Proof/Laws/State.lean ====
section
/-! SUPPORT. One lemma for each field of the state under each named update, so that no proof unfolds a record. -/

namespace Sys2Proof.Machine

@[simp] theorem setPc_regs (s : State) (v : Address) : (s.setPc v).regs = { s.regs with pc := v } := rfl
@[simp] theorem setPc_sched (s : State) (v : Address) : (s.setPc v).sched = s.sched := rfl
@[simp] theorem setPc_irq (s : State) (v : Address) : (s.setPc v).irq = s.irq := rfl
@[simp] theorem setPc_via0 (s : State) (v : Address) : (s.setPc v).via0 = s.via0 := rfl
@[simp] theorem setPc_via1 (s : State) (v : Address) : (s.setPc v).via1 = s.via1 := rfl
@[simp] theorem setPc_mem (s : State) (v : Address) : (s.setPc v).mem = s.mem := rfl
@[simp] theorem setPc_fault (s : State) (v : Address) : (s.setPc v).fault = s.fault := rfl
@[simp] theorem setPc_platform (s : State) (v : Address) : (s.setPc v).platform = s.platform := rfl
@[simp] theorem setPc_ext (s : State) (v : Address) : (s.setPc v).ext = s.ext := rfl

@[simp] theorem setSp_regs (s : State) (v : Byte) : (s.setSp v).regs = { s.regs with sp := v } := rfl
@[simp] theorem setSp_sched (s : State) (v : Byte) : (s.setSp v).sched = s.sched := rfl
@[simp] theorem setSp_irq (s : State) (v : Byte) : (s.setSp v).irq = s.irq := rfl
@[simp] theorem setSp_via0 (s : State) (v : Byte) : (s.setSp v).via0 = s.via0 := rfl
@[simp] theorem setSp_via1 (s : State) (v : Byte) : (s.setSp v).via1 = s.via1 := rfl
@[simp] theorem setSp_mem (s : State) (v : Byte) : (s.setSp v).mem = s.mem := rfl
@[simp] theorem setSp_fault (s : State) (v : Byte) : (s.setSp v).fault = s.fault := rfl
@[simp] theorem setSp_platform (s : State) (v : Byte) : (s.setSp v).platform = s.platform := rfl
@[simp] theorem setSp_ext (s : State) (v : Byte) : (s.setSp v).ext = s.ext := rfl

@[simp] theorem setP_regs (s : State) (v : Flags) : (s.setP v).regs = { s.regs with p := v } := rfl
@[simp] theorem setP_sched (s : State) (v : Flags) : (s.setP v).sched = s.sched := rfl
@[simp] theorem setP_irq (s : State) (v : Flags) : (s.setP v).irq = s.irq := rfl
@[simp] theorem setP_via0 (s : State) (v : Flags) : (s.setP v).via0 = s.via0 := rfl
@[simp] theorem setP_via1 (s : State) (v : Flags) : (s.setP v).via1 = s.via1 := rfl
@[simp] theorem setP_mem (s : State) (v : Flags) : (s.setP v).mem = s.mem := rfl
@[simp] theorem setP_fault (s : State) (v : Flags) : (s.setP v).fault = s.fault := rfl
@[simp] theorem setP_platform (s : State) (v : Flags) : (s.setP v).platform = s.platform := rfl
@[simp] theorem setP_ext (s : State) (v : Flags) : (s.setP v).ext = s.ext := rfl

@[simp] theorem setVia_regs (s : State) (i : TimerId) (v : Via) : (s.setVia i v).regs = s.regs := by cases i <;> rfl
@[simp] theorem setVia_sched (s : State) (i : TimerId) (v : Via) : (s.setVia i v).sched = s.sched := by cases i <;> rfl
@[simp] theorem setVia_irq (s : State) (i : TimerId) (v : Via) : (s.setVia i v).irq = s.irq := by cases i <;> rfl
@[simp] theorem setVia_mem (s : State) (i : TimerId) (v : Via) : (s.setVia i v).mem = s.mem := by cases i <;> rfl
@[simp] theorem setVia_fault (s : State) (i : TimerId) (v : Via) : (s.setVia i v).fault = s.fault := by cases i <;> rfl
@[simp] theorem setVia_platform (s : State) (i : TimerId) (v : Via) : (s.setVia i v).platform = s.platform := by cases i <;> rfl
@[simp] theorem setVia_ext (s : State) (i : TimerId) (v : Via) : (s.setVia i v).ext = s.ext := by cases i <;> rfl

@[simp] theorem lineUpdate_regs (i : TimerId) (s : State) : (lineUpdate i s).regs = s.regs := rfl
@[simp] theorem lineUpdate_sched (i : TimerId) (s : State) : (lineUpdate i s).sched = s.sched := rfl
@[simp] theorem lineUpdate_irq (i : TimerId) (s : State) : (lineUpdate i s).irq = { s.irq with status := withBits (lineMask i) (s.via i).top s.irq.status } := rfl
@[simp] theorem lineUpdate_via0 (i : TimerId) (s : State) : (lineUpdate i s).via0 = s.via0 := rfl
@[simp] theorem lineUpdate_via1 (i : TimerId) (s : State) : (lineUpdate i s).via1 = s.via1 := rfl
@[simp] theorem lineUpdate_mem (i : TimerId) (s : State) : (lineUpdate i s).mem = s.mem := rfl
@[simp] theorem lineUpdate_fault (i : TimerId) (s : State) : (lineUpdate i s).fault = s.fault := rfl
@[simp] theorem lineUpdate_platform (i : TimerId) (s : State) : (lineUpdate i s).platform = s.platform := rfl
@[simp] theorem lineUpdate_ext (i : TimerId) (s : State) : (lineUpdate i s).ext = s.ext := rfl

@[simp] theorem writeSource_regs (id : Nat) (on : Bool) (s : State) : (writeSource id on s).regs = s.regs := rfl
@[simp] theorem writeSource_sched (id : Nat) (on : Bool) (s : State) : (writeSource id on s).sched = s.sched := rfl
@[simp] theorem writeSource_irq (id : Nat) (on : Bool) (s : State) : (writeSource id on s).irq = { s.irq with status := withBits (1#8 <<< id) on s.irq.status } := rfl
@[simp] theorem writeSource_via0 (id : Nat) (on : Bool) (s : State) : (writeSource id on s).via0 = s.via0 := rfl
@[simp] theorem writeSource_via1 (id : Nat) (on : Bool) (s : State) : (writeSource id on s).via1 = s.via1 := rfl
@[simp] theorem writeSource_mem (id : Nat) (on : Bool) (s : State) : (writeSource id on s).mem = s.mem := rfl
@[simp] theorem writeSource_fault (id : Nat) (on : Bool) (s : State) : (writeSource id on s).fault = s.fault := rfl
@[simp] theorem writeSource_platform (id : Nat) (on : Bool) (s : State) : (writeSource id on s).platform = s.platform := rfl
@[simp] theorem writeSource_ext (id : Nat) (on : Bool) (s : State) : (writeSource id on s).ext = s.ext := rfl

@[simp] theorem chargeTime_regs (n : Nat) (s : State) : (chargeTime n s).regs = s.regs := rfl
@[simp] theorem chargeTime_sched (n : Nat) (s : State) : (chargeTime n s).sched = s.sched.charge n := rfl
@[simp] theorem chargeTime_irq (n : Nat) (s : State) : (chargeTime n s).irq = { s.irq with countdown := countDown n s.irq.countdown } := rfl
@[simp] theorem chargeTime_via0 (n : Nat) (s : State) : (chargeTime n s).via0 = s.via0 := rfl
@[simp] theorem chargeTime_via1 (n : Nat) (s : State) : (chargeTime n s).via1 = s.via1 := rfl
@[simp] theorem chargeTime_mem (n : Nat) (s : State) : (chargeTime n s).mem = s.mem := rfl
@[simp] theorem chargeTime_fault (n : Nat) (s : State) : (chargeTime n s).fault = s.fault := rfl
@[simp] theorem chargeTime_platform (n : Nat) (s : State) : (chargeTime n s).platform = s.platform := rfl
@[simp] theorem chargeTime_ext (n : Nat) (s : State) : (chargeTime n s).ext = s.ext := rfl

@[simp] theorem trackI_regs (o n : Bool) (s : State) : (trackI o n s).regs = s.regs := rfl
@[simp] theorem trackI_sched (o n : Bool) (s : State) : (trackI o n s).sched = s.sched := rfl
@[simp] theorem trackI_irq (o n : Bool) (s : State) : (trackI o n s).irq = { s.irq with justSet := !o && n, justCleared := o && !n } := rfl
@[simp] theorem trackI_via0 (o n : Bool) (s : State) : (trackI o n s).via0 = s.via0 := rfl
@[simp] theorem trackI_via1 (o n : Bool) (s : State) : (trackI o n s).via1 = s.via1 := rfl
@[simp] theorem trackI_mem (o n : Bool) (s : State) : (trackI o n s).mem = s.mem := rfl
@[simp] theorem trackI_fault (o n : Bool) (s : State) : (trackI o n s).fault = s.fault := rfl
@[simp] theorem trackI_platform (o n : Bool) (s : State) : (trackI o n s).platform = s.platform := rfl
@[simp] theorem trackI_ext (o n : Bool) (s : State) : (trackI o n s).ext = s.ext := rfl

@[simp] theorem dropRequest_regs (s : State) : (dropRequest s).regs = s.regs := rfl
@[simp] theorem dropRequest_sched (s : State) : (dropRequest s).sched = s.sched := rfl
@[simp] theorem dropRequest_irq (s : State) : (dropRequest s).irq = { s.irq with due := false, countdown := none } := rfl
@[simp] theorem dropRequest_via0 (s : State) : (dropRequest s).via0 = s.via0 := rfl
@[simp] theorem dropRequest_via1 (s : State) : (dropRequest s).via1 = s.via1 := rfl
@[simp] theorem dropRequest_mem (s : State) : (dropRequest s).mem = s.mem := rfl
@[simp] theorem dropRequest_fault (s : State) : (dropRequest s).fault = s.fault := rfl
@[simp] theorem dropRequest_platform (s : State) : (dropRequest s).platform = s.platform := rfl
@[simp] theorem dropRequest_ext (s : State) : (dropRequest s).ext = s.ext := rfl

@[simp] theorem beginEntry_regs (s : State) : (beginEntry s).regs = s.regs := rfl
@[simp] theorem beginEntry_sched (s : State) : (beginEntry s).sched = { s.sched with entry := 0, inEntry := true } := rfl
@[simp] theorem beginEntry_irq (s : State) : (beginEntry s).irq = { s.irq with due := false, countdown := none } := rfl
@[simp] theorem beginEntry_via0 (s : State) : (beginEntry s).via0 = s.via0 := rfl
@[simp] theorem beginEntry_via1 (s : State) : (beginEntry s).via1 = s.via1 := rfl
@[simp] theorem beginEntry_mem (s : State) : (beginEntry s).mem = s.mem := rfl
@[simp] theorem beginEntry_fault (s : State) : (beginEntry s).fault = s.fault := rfl
@[simp] theorem beginEntry_platform (s : State) : (beginEntry s).platform = s.platform := rfl
@[simp] theorem beginEntry_ext (s : State) : (beginEntry s).ext = s.ext := rfl

@[simp] theorem beginInstr_regs (s : State) : (beginInstr s).regs = s.regs := rfl
@[simp] theorem beginInstr_sched (s : State) : (beginInstr s).sched = { s.sched with instr := 0, io := 0, branch := 0, entry := 0, inEntry := false } := rfl
@[simp] theorem beginInstr_irq (s : State) : (beginInstr s).irq = { s.irq with justSet := false, justCleared := false } := rfl
@[simp] theorem beginInstr_via0 (s : State) : (beginInstr s).via0 = s.via0 := rfl
@[simp] theorem beginInstr_via1 (s : State) : (beginInstr s).via1 = s.via1 := rfl
@[simp] theorem beginInstr_mem (s : State) : (beginInstr s).mem = s.mem := rfl
@[simp] theorem beginInstr_fault (s : State) : (beginInstr s).fault = s.fault := rfl
@[simp] theorem beginInstr_platform (s : State) : (beginInstr s).platform = s.platform := rfl
@[simp] theorem beginInstr_ext (s : State) : (beginInstr s).ext = s.ext := rfl

@[simp] theorem record_regs (r : ExtRecord) (s : State) : (s.record r).regs = s.regs := rfl
@[simp] theorem record_sched (r : ExtRecord) (s : State) : (s.record r).sched = s.sched := rfl
@[simp] theorem record_irq (r : ExtRecord) (s : State) : (s.record r).irq = s.irq := rfl
@[simp] theorem record_via0 (r : ExtRecord) (s : State) : (s.record r).via0 = s.via0 := rfl
@[simp] theorem record_via1 (r : ExtRecord) (s : State) : (s.record r).via1 = s.via1 := rfl
@[simp] theorem record_mem (r : ExtRecord) (s : State) : (s.record r).mem = s.mem := rfl
@[simp] theorem record_fault (r : ExtRecord) (s : State) : (s.record r).fault = s.fault := rfl
@[simp] theorem record_platform (r : ExtRecord) (s : State) : (s.record r).platform = s.platform := rfl
@[simp] theorem record_ext (r : ExtRecord) (s : State) :
    (s.record r).ext = { s.ext with history := r :: s.ext.history } := rfl
@[simp] theorem record_via (r : ExtRecord) (s : State) (i : TimerId) : (s.record r).via i = s.via i := by cases i <;> rfl

@[simp] theorem setVia_t0_via0 (s : State) (v : Via) : (s.setVia .t0 v).via0 = v := rfl
@[simp] theorem setVia_t0_via1 (s : State) (v : Via) : (s.setVia .t0 v).via1 = s.via1 := rfl
@[simp] theorem setVia_t1_via0 (s : State) (v : Via) : (s.setVia .t1 v).via0 = s.via0 := rfl
@[simp] theorem setVia_t1_via1 (s : State) (v : Via) : (s.setVia .t1 v).via1 = v := rfl
@[simp] theorem via_t0 (s : State) : s.via .t0 = s.via0 := rfl
@[simp] theorem via_t1 (s : State) : s.via .t1 = s.via1 := rfl
@[simp] theorem setVia_via (s : State) (i : TimerId) (v : Via) : (s.setVia i v).via i = v := by cases i <;> rfl
@[simp] theorem lineUpdate_via (i j : TimerId) (s : State) : (lineUpdate i s).via j = s.via j := by cases j <;> rfl
@[simp] theorem setPc_via (s : State) (v : Address) (i : TimerId) : (s.setPc v).via i = s.via i := by cases i <;> rfl
@[simp] theorem setSp_via (s : State) (v : Byte) (i : TimerId) : (s.setSp v).via i = s.via i := by cases i <;> rfl
@[simp] theorem setP_via (s : State) (v : Flags) (i : TimerId) : (s.setP v).via i = s.via i := by cases i <;> rfl

@[simp] theorem launch_mem (image : List Host.Cell) : (State.launch image).mem = image := rfl
@[simp] theorem launch_platform (image : List Host.Cell) : (State.launch image).platform = platformP0 := rfl
@[simp] theorem launch_fault (image : List Host.Cell) : (State.launch image).fault = none := rfl

/-- An update of a peripheral leaves what stands outside the peripherals and `IntStatus`. -/
@[simp] theorem updateVia_regs (i : TimerId) (f : Via → Via) (s : State) : (updateVia i f s).regs = s.regs := by
  simp [updateVia]
@[simp] theorem updateVia_sched (i : TimerId) (f : Via → Via) (s : State) : (updateVia i f s).sched = s.sched := by
  simp [updateVia]
@[simp] theorem updateVia_mem (i : TimerId) (f : Via → Via) (s : State) : (updateVia i f s).mem = s.mem := by
  simp [updateVia]
@[simp] theorem updateVia_fault (i : TimerId) (f : Via → Via) (s : State) : (updateVia i f s).fault = s.fault := by
  simp [updateVia]
@[simp] theorem updateVia_platform (i : TimerId) (f : Via → Via) (s : State) :
    (updateVia i f s).platform = s.platform := by simp [updateVia]
@[simp] theorem updateVia_ext (i : TimerId) (f : Via → Via) (s : State) : (updateVia i f s).ext = s.ext := by
  simp [updateVia]
@[simp] theorem updateVia_via (i : TimerId) (f : Via → Via) (s : State) : (updateVia i f s).via i = f (s.via i) := by
  simp [updateVia]

end Sys2Proof.Machine
end

