-- ==== Sys2Proof/Laws/Quiet.lean ====
section
/-! SUPPORT. What an advance and a bus access can do, said once: an advance and a read are `Quiet`, a write is `Steady`
and changes memory at its own address only; and with the timers in supported modes each of them answers. -/

namespace Sys2Proof.Machine

theorem Steady.refl (s : State) : Steady s s := ⟨rfl, rfl, rfl, rfl, rfl, rfl, rfl, rfl⟩

theorem Steady.trans {s t u : State} (h : Steady s t) (k : Steady t u) : Steady s u :=
  ⟨k.regs.trans h.regs, k.platform.trans h.platform, k.total.trans h.total, k.branch.trans h.branch,
    k.inEntry.trans h.inEntry, k.due.trans h.due, k.justSet.trans h.justSet, k.justCleared.trans h.justCleared⟩

theorem Quiet.refl (s : State) : Quiet s s := ⟨Steady.refl s, rfl, rfl, rfl, rfl, rfl⟩

theorem Quiet.trans {s t u : State} (h : Quiet s t) (k : Quiet t u) : Quiet s u :=
  ⟨h.toSteady.trans k.toSteady, k.mem.trans h.mem, k.acr0.trans h.acr0, k.pcr0.trans h.pcr0, k.acr1.trans h.acr1,
    k.pcr1.trans h.pcr1⟩

/-! ### The timers -/

theorem quiet_setVia {s : State} {i : TimerId} {v : Via} (ha : v.acr = (s.via i).acr) (hp : v.pcr = (s.via i).pcr) :
    Quiet s (s.setVia i v) := by
  cases i <;> exact ⟨⟨rfl, rfl, rfl, rfl, rfl, rfl, rfl, rfl⟩, rfl, by simp_all, by simp_all, by simp_all, by simp_all⟩

theorem quiet_lineUpdate (i : TimerId) (s : State) : Quiet s (lineUpdate i s) :=
  ⟨⟨rfl, rfl, rfl, rfl, rfl, rfl, rfl, rfl⟩, rfl, rfl, rfl, rfl, rfl⟩

theorem quiet_updateVia {i : TimerId} {f : Via → Via} {s : State} (ha : (f (s.via i)).acr = (s.via i).acr)
    (hp : (f (s.via i)).pcr = (s.via i).pcr) : Quiet s (updateVia i f s) :=
  (quiet_setVia ha hp).trans (quiet_lineUpdate i _)

theorem quiet_claim (e : Bool) (c : Int) (s : State) : Quiet s (claim e c s) := by
  unfold claim
  split
  · exact ⟨⟨rfl, rfl, rfl, rfl, rfl, rfl, rfl, rfl⟩, rfl, rfl, rfl, rfl, rfl⟩
  · exact Quiet.refl s

theorem quiet_t1Fire (i : TimerId) (s : State) : Quiet s (t1Fire i s) := by
  unfold t1Fire
  split
  · exact (quiet_updateVia rfl rfl).trans (quiet_claim _ _ _)
  · exact Quiet.refl s

theorem quiet_t2Fire (i : TimerId) (s : State) : Quiet s (t2Fire i s) := by
  unfold t2Fire
  split
  · exact (quiet_updateVia rfl rfl).trans (quiet_claim _ _ _)
  · exact Quiet.refl s

theorem quiet_t1Poll (i : TimerId) (s : State) : Quiet s (t1Poll i s) := by
  unfold t1Poll
  dsimp only
  split
  · exact (quiet_t1Fire i s).trans (quiet_setVia rfl rfl)
  · exact quiet_t1Fire i s

theorem quiet_t2Poll (i : TimerId) (s : State) : Quiet s (t2Poll i s) := by
  unfold t2Poll
  dsimp only
  split
  · exact (quiet_t2Fire i s).trans (quiet_setVia rfl rfl)
  · exact quiet_t2Fire i s

theorem quiet_count (i : TimerId) (n : Nat) (s : State) : Quiet s (s.setVia i ((s.via i).count n)) :=
  quiet_setVia rfl rfl

theorem quiet_timerAdvance (i : TimerId) (n : Nat) (s : State) : Quiet s (timerAdvance i n s) := by
  unfold timerAdvance
  exact ((quiet_count i n s).trans (quiet_t1Poll i _)).trans (quiet_t2Poll i _)

/-! ### The environment -/

/-- A change of the environment alone. -/
theorem quiet_ext (s : State) (e : Ext) : Quiet s { s with ext := e } :=
  ⟨⟨rfl, rfl, rfl, rfl, rfl, rfl, rfl, rfl⟩, rfl, rfl, rfl, rfl, rfl⟩

/-- What the environment is told changes nothing else. -/
theorem quiet_record (r : ExtRecord) (s : State) : Quiet s (s.record r) := quiet_ext s _

theorem quiet_guarded {α : Type} {s : State} {c : Call α} (h : Quiet s c.state) : Quiet s (guarded s c).state := by
  unfold guarded
  split
  · exact Quiet.refl s
  · exact h

theorem quiet_callErr {α : Type} (e : Fault) (s : State) : Quiet s (callErr e s : Call α).state :=
  ⟨⟨rfl, rfl, rfl, rfl, rfl, rfl, rfl, rfl⟩, rfl, rfl, rfl, rfl, rfl⟩

theorem quiet_portWrite (id : Nat) (on : Bool) (s : State) : Quiet s (portWrite id on s).state := by
  refine quiet_guarded ?_
  split
  · exact ⟨⟨rfl, rfl, rfl, rfl, rfl, rfl, rfl, rfl⟩, rfl, rfl, rfl, rfl, rfl⟩
  · exact quiet_callErr _ s

theorem quiet_keepTrigger {s : State} (k : Nat) {c : Call Trigger} (h : Quiet s c.state) :
    Quiet s (keepTrigger k c) := by
  unfold keepTrigger
  split
  · exact h.trans (quiet_ext _ _)
  · exact h

theorem quiet_rescheduleTrigger (d : Int) (t : Trigger) (s : State) : Quiet s (rescheduleTrigger d t s).state := by
  refine quiet_guarded ?_
  cases t
  · exact quiet_callErr _ s
  · exact Quiet.refl s

theorem quiet_signalIfRunning (i : TimerId) (line : CtlLine) (s : State) : Quiet s (signalIfRunning i line s) := by
  unfold signalIfRunning
  split
  · exact Quiet.refl s
  · exact quiet_updateVia rfl rfl

theorem quiet_extEvent (e : ExtEvent) (s : State) : Quiet s (extEvent e s) := by
  cases e with
  | setSource id => exact quiet_portWrite id true s
  | clearSource id => exact quiet_portWrite id false s
  | signal i line => exact quiet_signalIfRunning i line s
  | setPins i port v => exact quiet_ext s _
  | schedule k d => exact quiet_keepTrigger k (quiet_guarded (Quiet.refl s))
  | reschedule k d => exact quiet_keepTrigger k (quiet_rescheduleTrigger d _ s)
  | clear k => exact quiet_keepTrigger k (quiet_guarded (Quiet.refl s))

theorem quiet_extEvents (es : List ExtEvent) (s : State) : Quiet s (extEvents es s) := by
  induction es generalizing s with
  | nil => exact Quiet.refl s
  | cons e rest ih => exact (quiet_extEvent e s).trans (ih _)

theorem quiet_extRespond (s : State) : Quiet s (extRespond s) := by
  unfold extRespond
  split
  · exact Quiet.refl s
  · exact (quiet_ext s _).trans (quiet_extEvents _ _)

theorem quiet_extAdvance (n : Nat) (s : State) : Quiet s (extAdvance n s) :=
  (quiet_record _ s).trans (quiet_extRespond _)

/-! ### Time -/

theorem charge_total (n : Nat) (c : Sched) : (c.charge n).total = c.total := by unfold Sched.charge; split <;> rfl
theorem charge_branch (n : Nat) (c : Sched) : (c.charge n).branch = c.branch := by unfold Sched.charge; split <;> rfl
theorem charge_inEntry (n : Nat) (c : Sched) : (c.charge n).inEntry = c.inEntry := by
  unfold Sched.charge; split <;> rfl

theorem quiet_chargeTime (n : Nat) (s : State) : Quiet s (chargeTime n s) :=
  ⟨⟨rfl, rfl, charge_total n _, charge_branch n _, charge_inEntry n _, rfl, rfl, rfl⟩, rfl, rfl, rfl, rfl, rfl⟩

/-- R196: an advance changes no register, no memory and no mode. -/
theorem quiet_advance (n : Nat) (s : State) : Quiet s (advance n s) := by
  unfold advance
  split
  · exact Quiet.refl s
  · exact (((quiet_chargeTime n s).trans (quiet_timerAdvance _ n _)).trans (quiet_timerAdvance _ n _)).trans
      (quiet_extAdvance n _)

theorem quiet_ioWait (k : AccessKind) (a : Address) (s : State) : Quiet s (ioWait k a s) := by
  have h := quiet_advance (waitIn a k s.platform.ioWait) s
  exact ⟨⟨h.regs, h.platform, h.total, h.branch, h.inEntry, h.due, h.justSet, h.justCleared⟩, h.mem, h.acr0, h.pcr0,
    h.acr1, h.pcr1⟩

@[simp] theorem advance_regs (n : Nat) (s : State) : (advance n s).regs = s.regs := (quiet_advance n s).regs
@[simp] theorem advance_mem (n : Nat) (s : State) : (advance n s).mem = s.mem := (quiet_advance n s).mem
@[simp] theorem advance_platform (n : Nat) (s : State) : (advance n s).platform = s.platform :=
  (quiet_advance n s).platform

/-! ### Reads -/

/-- A property of whatever state an outcome leads to. -/
def Leads {α : Type} (P : State → Prop) (o : Yield α) : Prop := ∀ r, o = .next r → P r.2

theorem leads_andThen {α β : Type} {P : State → Prop} {o : Yield α} {k : α × State → Yield β}
    (h : ∀ r, o = .next r → Leads P (k r)) : Leads P (andThen o k) := by
  intro r hr
  obtain ⟨x, hx, hk⟩ := andThen_eq_next.mp hr
  exact h x hx r hk

theorem quiet_accessPortA {i : TimerId} {s t : State} (h : accessPortA i s = .next t) : Quiet s t := by
  unfold accessPortA at h
  split at h
  · simp at h
  · cases h
    exact quiet_updateVia rfl rfl

theorem quiet_accessPortB {i : TimerId} {s t : State} (h : accessPortB i s = .next t) : Quiet s t := by
  unfold accessPortB at h
  split at h
  · simp at h
  · cases h
    exact quiet_updateVia rfl rfl

theorem quiet_accessSR {i : TimerId} {s t : State} (h : accessSR i s = .next t) : Quiet s t := by
  unfold accessSR at h
  split at h
  · simp at h
  · cases h
    exact quiet_updateVia rfl rfl

theorem quiet_yieldByte (v : Byte) {s t : State} (h : Quiet s t) : Leads (Quiet s) (yieldByte v t) := by
  rintro r hr
  cases hr
  exact h

theorem quiet_accessYield {s : State} {o : Result} (v : Byte) (h : ∀ t, o = .next t → Quiet s t) :
    Leads (Quiet s) (andThen o (yieldByte v)) := by
  intro r hr
  obtain ⟨t, ht, hk⟩ := andThen_eq_next.mp hr
  exact quiet_yieldByte v (h t ht) r hk

theorem quiet_timerRead (i : TimerId) (off : Nat) (s : State) : Leads (Quiet s) (timerRead i off s) := by
  unfold timerRead
  split
  · exact quiet_accessYield _ fun t => quiet_accessPortB
  · exact quiet_accessYield _ fun t => quiet_accessPortA
  · exact quiet_yieldByte _ (Quiet.refl s)
  · exact quiet_yieldByte _ (Quiet.refl s)
  · exact quiet_yieldByte _ (quiet_updateVia rfl rfl)
  · exact quiet_yieldByte _ (Quiet.refl s)
  · exact quiet_yieldByte _ (Quiet.refl s)
  · exact quiet_yieldByte _ (Quiet.refl s)
  · exact quiet_yieldByte _ (quiet_updateVia rfl rfl)
  · exact quiet_yieldByte _ (Quiet.refl s)
  · exact quiet_accessYield _ fun t => quiet_accessSR
  · exact quiet_yieldByte _ (Quiet.refl s)
  · exact quiet_yieldByte _ (Quiet.refl s)
  · exact quiet_yieldByte _ (Quiet.refl s)
  · exact quiet_yieldByte _ (Quiet.refl s)
  · exact quiet_yieldByte _ (Quiet.refl s)
  · intro r hr
    simp at hr

theorem quiet_busRead (a : Address) (s : State) : Leads (Quiet s) (busRead a s) := by
  unfold busRead
  split
  · exact quiet_timerRead _ _ s
  · rintro r hr
    cases hr
    exact quiet_record _ s
  · rintro r hr
    cases hr
    exact quiet_record _ s

theorem quiet_memRead (k : AccessKind) (a : Address) (s : State) : Leads (Quiet s) (memRead k a s) := by
  refine leads_andThen fun r hr q hq => ?_
  cases hq
  exact (quiet_busRead a s r hr).trans (quiet_ioWait k a _)

theorem quiet_memRead16 (a b : Address) (s : State) : Leads (Quiet s) (memRead16 a b s) := by
  refine leads_andThen fun l hl => leads_andThen fun h hh q hq => ?_
  cases hq
  exact (quiet_memRead _ _ _ l hl).trans (quiet_memRead _ _ _ h hh)

theorem quiet_resolve (m : EaMode) (s : State) : Leads (Quiet s) (resolve m s) := by
  cases m with
  | izx z =>
    refine leads_andThen fun r hr q hq => ?_
    cases hq
    exact quiet_memRead16 _ _ _ r hr
  | izy z =>
    refine leads_andThen fun r hr q hq => ?_
    cases hq
    exact quiet_memRead16 _ _ _ r hr
  | zp z => rintro q ⟨⟩; exact Quiet.refl s
  | zpx z => rintro q ⟨⟩; exact Quiet.refl s
  | zpy z => rintro q ⟨⟩; exact Quiet.refl s
  | abs w => rintro q ⟨⟩; exact Quiet.refl s
  | abx w => rintro q ⟨⟩; exact Quiet.refl s
  | aby w => rintro q ⟨⟩; exact Quiet.refl s

theorem quiet_gatedRead (t : Timing) (r : Resolved) (s : State) : Leads (Quiet s) (gatedRead t r s) :=
  fun q hq => (quiet_advance _ s).trans (quiet_memRead _ _ _ q hq)

theorem quiet_load (t : Timing) (o : Operand) (s : State) : Leads (Quiet s) (load t o s) := by
  cases o with
  | imm b => rintro q ⟨⟩; exact Quiet.refl s
  | byte m => exact leads_andThen fun r hr q hq => (quiet_resolve m s r hr).trans (quiet_gatedRead _ _ _ q hq)

/-! ### Writes -/

theorem steady_setVia (s : State) (i : TimerId) (v : Via) : Steady s (s.setVia i v) := by
  cases i <;> exact ⟨rfl, rfl, rfl, rfl, rfl, rfl, rfl, rfl⟩

theorem steady_updateVia (s : State) (i : TimerId) (f : Via → Via) : Steady s (updateVia i f s) :=
  (steady_setVia s i _).trans (quiet_lineUpdate i _).toSteady

/-- What a write of a timer register does to the rest of the block: nothing. -/
theorem steady_timerWrite {i : TimerId} {off : Nat} {v : Byte} {s t : State} (h : timerWrite i off v s = .next t) :
    Steady s t ∧ t.mem = s.mem := by
  unfold timerWrite at h
  split at h <;> first
    | (obtain ⟨u, hu, hk⟩ := andThen_eq_next.mp h
       cases hk
       first
         | exact ⟨(quiet_accessPortB hu).toSteady.trans (steady_setVia _ _ _), by simp [(quiet_accessPortB hu).mem]⟩
         | exact ⟨(quiet_accessPortA hu).toSteady.trans (steady_setVia _ _ _), by simp [(quiet_accessPortA hu).mem]⟩
         | exact ⟨(quiet_accessSR hu).toSteady.trans (steady_setVia _ _ _), by simp [(quiet_accessSR hu).mem]⟩)
    | (simp at h; done)
    | (cases h; first
         | exact ⟨steady_setVia _ _ _, by simp⟩
         | exact ⟨steady_updateVia _ _ _, by simp⟩)

theorem steady_busWrite {a : Address} {v : Byte} {s t : State} (h : busWrite a v s = .next t) :
    Steady s t ∧ t.mem = storedMem s a v := by
  unfold busWrite at h
  unfold storedMem
  split at h
  · next heq => simpa [heq] using steady_timerWrite h
  · next heq =>
    cases h
    exact ⟨⟨rfl, rfl, rfl, rfl, rfl, rfl, rfl, rfl⟩, by simp [heq]⟩
  · next heq =>
    cases h
    exact ⟨⟨rfl, rfl, rfl, rfl, rfl, rfl, rfl, rfl⟩, by simp [heq]⟩

theorem steady_memWrite {a : Address} {v : Byte} {s t : State} (h : memWrite a v s = .next t) :
    Steady s t ∧ t.mem = storedMem s a v := by
  obtain ⟨u, hu, hk⟩ := andThen_eq_next.mp h
  cases hk
  have hq := quiet_ioWait .write a u
  exact ⟨(steady_busWrite hu).1.trans hq.toSteady, hq.mem.trans (steady_busWrite hu).2⟩

theorem storedMem_quiet {s t : State} (h : Quiet s t) (a : Address) (v : Byte) : storedMem t a v = storedMem s a v := by
  simp [storedMem, h.platform, h.mem]

theorem steady_gatedWrite {t : Timing} {a : Address} {v : Byte} {s u : State} (h : gatedWrite t a v s = .next u) :
    Steady s u ∧ u.mem = storedMem s a v := by
  have hq := quiet_advance t.writeSub s
  have hw := steady_memWrite h
  exact ⟨hq.toSteady.trans hw.1, hw.2.trans (storedMem_quiet hq a v)⟩

/-- A push: the byte goes to the stack address, the stack pointer down, and no other register changes. -/
theorem push_next {v : Byte} {s t : State} (h : push v s = .next t) :
    t.regs = { s.regs with sp := s.regs.sp - 1 } ∧ t.mem = storedMem s (stackAddr s.regs.sp) v ∧
      t.platform = s.platform ∧ Steady (s.setSp (s.regs.sp - 1)) t := by
  obtain ⟨u, hu, hk⟩ := andThen_eq_next.mp h
  cases hk
  have hw := steady_memWrite hu
  refine ⟨by simp [hw.1.regs], by simp [hw.2], by simp [hw.1.platform], ?_⟩
  exact ⟨by simp [hw.1.regs], hw.1.platform, hw.1.total, hw.1.branch, hw.1.inEntry, hw.1.due, hw.1.justSet,
    hw.1.justCleared⟩

theorem quiet_pop {s : State} : Leads (Quiet (s.setSp (s.regs.sp + 1))) (pop s) :=
  quiet_memRead _ _ _

end Sys2Proof.Machine
end

