-- ==== Sys2Proof/Laws/Answers.lean ====
section
/-! SUPPORT. When the operations that make bus accesses answer: with the timers in supported modes every access does,
and an access of plain memory always does, with the byte of memory. -/

namespace Sys2Proof.Machine

/-- Supported modes are a matter of ACR and PCR alone. -/
theorem Supported.modes {s t : State} (h : Supported s) (a0 : t.via0.acr = s.via0.acr) (p0 : t.via0.pcr = s.via0.pcr)
    (a1 : t.via1.acr = s.via1.acr) (p1 : t.via1.pcr = s.via1.pcr) : Supported t := by
  unfold Supported Via.supported Via.shiftMode Via.ca2Control Via.cb2Control at *
  rw [a0, p0, a1, p1]
  exact h

theorem Supported.quiet {s t : State} (h : Supported s) (q : Quiet s t) : Supported t :=
  h.modes q.acr0 q.pcr0 q.acr1 q.pcr1

theorem Supported.via {s : State} (h : Supported s) (i : TimerId) : (s.via i).supported = true := by
  cases i
  · exact h.1
  · exact h.2

theorem windowOffset_le {b : Option Address} {a : Address} {off : Nat} (h : windowOffset b a = some off) :
    off ≤ 15 := by
  cases b with
  | none => cases h
  | some b =>
    simp only [windowOffset] at h
    split_ifs at h with hb
    cases h
    omega

/-- R82: the routing of the bus never makes an offset above 15. -/
theorem route_offset {p : Platform} {a : Address} {i : TimerId} {off : Nat} (h : route p a = .timer i off) :
    off ≤ 15 := by
  unfold route at h
  split at h
  · next h0 => cases h; exact windowOffset_le h0
  · split at h
    · next h1 => cases h; exact windowOffset_le h1
    · split at h <;> cases h

theorem supported_modes {v : Via} (h : v.supported = true) :
    v.shiftMode = 0 ∧ handshakeControl v.ca2Control = false ∧ handshakeControl v.cb2Control = false := by
  simpa [Via.supported, and_assoc] using h

theorem timerRead_answers {i : TimerId} {off : Nat} {s : State} (h : (s.via i).supported = true) (ho : off ≤ 15) :
    ∃ r, timerRead i off s = .next r := by
  obtain ⟨h1, h2, h3⟩ := supported_modes h
  interval_cases off <;> simp [timerRead, accessPortA, accessPortB, accessSR, yieldByte, h1, h2, h3]

theorem timerWrite_answers {i : TimerId} {off : Nat} {v : Byte} {s : State} (h : (s.via i).supported = true)
    (ho : off ≤ 15) : ∃ t, timerWrite i off v s = .next t := by
  obtain ⟨h1, h2, h3⟩ := supported_modes h
  interval_cases off <;> simp [timerWrite, accessPortA, accessPortB, accessSR, h1, h2, h3]

theorem busRead_answers {s : State} (h : Supported s) (a : Address) : ∃ r, busRead a s = .next r := by
  unfold busRead
  split
  · next heq => exact timerRead_answers (h.via _) (route_offset heq)
  · exact ⟨_, rfl⟩
  · exact ⟨_, rfl⟩

theorem busWrite_answers {s : State} (h : Supported s) (a : Address) (v : Byte) : ∃ t, busWrite a v s = .next t := by
  unfold busWrite
  split
  · next heq => exact timerWrite_answers (h.via _) (route_offset heq)
  · exact ⟨_, rfl⟩
  · exact ⟨_, rfl⟩

theorem memRead_answers {s : State} (h : Supported s) (k : AccessKind) (a : Address) :
    ∃ r, memRead k a s = .next r := by
  obtain ⟨r, hr⟩ := busRead_answers h a
  exact ⟨_, by rw [memRead, hr]; rfl⟩

theorem memWrite_answers {s : State} (h : Supported s) (a : Address) (v : Byte) : ∃ t, memWrite a v s = .next t := by
  obtain ⟨t, ht⟩ := busWrite_answers h a v
  exact ⟨_, by rw [memWrite, ht]; rfl⟩

theorem memRead16_answers {s : State} (h : Supported s) (a b : Address) : ∃ r, memRead16 a b s = .next r := by
  obtain ⟨l, hl⟩ := memRead_answers h .read a
  obtain ⟨u, hu⟩ := memRead_answers (h.quiet (quiet_memRead _ _ _ l hl)) .read b
  exact ⟨_, by rw [memRead16, hl, andThen_next, hu]; rfl⟩

theorem resolve_answers {s : State} (h : Supported s) (m : EaMode) : ∃ r, resolve m s = .next r := by
  cases m with
  | izx z => obtain ⟨r, hr⟩ := memRead16_answers h _ _; exact ⟨_, by simp only [resolve, zpPointer]; rw [hr]; rfl⟩
  | izy z => obtain ⟨r, hr⟩ := memRead16_answers h _ _; exact ⟨_, by simp only [resolve, zpPointer]; rw [hr]; rfl⟩
  | zp z => exact ⟨_, rfl⟩
  | zpx z => exact ⟨_, rfl⟩
  | zpy z => exact ⟨_, rfl⟩
  | abs w => exact ⟨_, rfl⟩
  | abx w => exact ⟨_, rfl⟩
  | aby w => exact ⟨_, rfl⟩

theorem gatedRead_answers {s : State} (h : Supported s) (t : Timing) (r : Resolved) :
    ∃ q, gatedRead t r s = .next q :=
  memRead_answers (h.quiet (quiet_advance _ s)) _ _

theorem gatedWrite_answers {s : State} (h : Supported s) (t : Timing) (a : Address) (v : Byte) :
    ∃ u, gatedWrite t a v s = .next u :=
  memWrite_answers (h.quiet (quiet_advance _ s)) _ _

theorem load_answers {s : State} (h : Supported s) (t : Timing) (o : Operand) : ∃ r, load t o s = .next r := by
  cases o with
  | imm b => exact ⟨_, rfl⟩
  | byte m =>
    obtain ⟨r, hr⟩ := resolve_answers h m
    obtain ⟨q, hq⟩ := gatedRead_answers (h.quiet (quiet_resolve m s r hr)) t r.1
    exact ⟨q, by simp only [load]; rw [hr, andThen_next, hq]⟩

theorem pop_answers {s : State} (h : Supported s) : ∃ r, pop s = .next r :=
  memRead_answers (s := s.setSp (s.regs.sp + 1)) h _ _

theorem pop16_answers {s : State} (h : Supported s) : ∃ r, pop16 s = .next r := by
  obtain ⟨l, hl⟩ := pop_answers h
  obtain ⟨u, hu⟩ := pop_answers (s := l.2) (Supported.quiet (s := s.setSp (s.regs.sp + 1)) h (quiet_pop l hl))
  exact ⟨_, by rw [pop16, hl, andThen_next, hu]; rfl⟩

/-! ### Plain memory -/

theorem busRead_memory {s : State} {a : Address} (h : route s.platform a = .memory) :
    busRead a s = .next (readByte s.mem a.toNat, s.record (.read a)) := by simp [busRead, h]

theorem busWrite_memory {s : State} {a : Address} (v : Byte) (h : route s.platform a = .memory) :
    busWrite a v s = .next { s.record (.write a v) with mem := writeByte s.mem a.toNat v } := by simp [busWrite, h]

theorem memRead_memory {s : State} (k : AccessKind) {a : Address} (h : route s.platform a = .memory) :
    memRead k a s = .next (readByte s.mem a.toNat, ioWait k a (s.record (.read a))) := by simp [memRead, busRead_memory h]

theorem memWrite_memory {s : State} {a : Address} (v : Byte) (h : route s.platform a = .memory) :
    memWrite a v s =
      .next (ioWait .write a { s.record (.write a v) with mem := writeByte s.mem a.toNat v }) := by
  simp [memWrite, busWrite_memory v h]

/-- A read of plain memory yields its byte, whatever read and advance came before. -/
theorem memRead_memory_value {s : State} {k : AccessKind} {a : Address} {r : Byte × State}
    (h : route s.platform a = .memory) (hr : memRead k a s = .next r) : r.1 = readByte s.mem a.toNat := by
  rw [memRead_memory k h] at hr
  cases hr
  rfl

theorem memRead16_memory {s : State} {a b : Address} (ha : route s.platform a = .memory)
    (hb : route s.platform b = .memory) :
    memRead16 a b s = .next (pair (readByte s.mem b.toNat) (readByte s.mem a.toNat),
      ioWait .read b ((ioWait .read a (s.record (.read a))).record (.read b))) := by
  have hq := (quiet_record (.read a) s).trans (quiet_ioWait .read a _)
  rw [memRead16, memRead_memory _ ha, andThen_next, memRead_memory _ (by rw [hq.platform]; exact hb), andThen_next,
    hq.mem]

theorem push_memory {s : State} (v : Byte) (h : route s.platform (stackAddr s.regs.sp) = .memory) :
    ∃ t, push v s = .next t := by
  exact ⟨_, by rw [push, memWrite_memory v h]; rfl⟩

theorem pop_memory_value {s : State} {r : Byte × State} (h : route s.platform (stackAddr (s.regs.sp + 1)) = .memory)
    (hr : pop s = .next r) : r.1 = readByte s.mem (stackAddr (s.regs.sp + 1)).toNat :=
  memRead_memory_value (s := s.setSp (s.regs.sp + 1)) h hr

/-- R86: an access that the platform gives no wait is followed by nothing. -/
theorem ioWait_none {k : AccessKind} {a : Address} {s : State} (h : waitIn a k s.platform.ioWait = 0) :
    ioWait k a s = s := by
  unfold ioWait
  rw [h]
  rfl

/-- R184: a fetch from plain memory that does not wait. -/
theorem fetch_plain {s : State} (h : route s.platform s.regs.pc = .memory)
    (hw : waitIn s.regs.pc .fetch s.platform.ioWait = 0) :
    fetch s = .next (readByte s.mem s.regs.pc.toNat, (s.record (.read s.regs.pc)).setPc (s.regs.pc + 1)) := by
  rw [fetch, memRead_memory _ h, ioWait_none (s := s.record _) hw]
  rfl

end Sys2Proof.Machine
end

