-- ==== Sys2Proof/Laws/Bits.lean ====
section
/-! SUPPORT. The bytes of a 16-bit word: taking apart and putting together, and the page-wrap of an indirect jump. -/

namespace Sys2Proof.Machine

theorem pair_toNat (h l : Byte) : (pair h l).toNat = h.toNat * 256 + l.toNat := by
  have hl := l.isLt
  simp only [pair, BitVec.toNat_append, Nat.shiftLeft_eq]
  rw [Nat.mul_comm, ← Nat.two_pow_add_eq_or_of_lt hl]

theorem lo_toNat (w : Address) : (lo w).toNat = w.toNat % 256 := by simp [lo]

theorem hi_toNat (w : Address) : (hi w).toNat = w.toNat / 256 := by
  have hw := w.isLt
  simp only [hi, BitVec.toNat_setWidth, BitVec.toNat_ushiftRight, Nat.shiftRight_eq_div_pow]
  omega

@[simp] theorem pair_hi_lo (w : Address) : pair (hi w) (lo w) = w := by
  apply BitVec.eq_of_toNat_eq
  rw [pair_toNat, hi_toNat, lo_toNat]
  omega

@[simp] theorem lo_pair (h l : Byte) : lo (pair h l) = l := by
  apply BitVec.eq_of_toNat_eq
  have hl := l.isLt
  rw [lo_toNat, pair_toNat]
  omega

@[simp] theorem hi_pair (h l : Byte) : hi (pair h l) = h := by
  apply BitVec.eq_of_toNat_eq
  have hl := l.isLt
  rw [hi_toNat, pair_toNat]
  omega

theorem zext16_toNat (b : Byte) : (zext16 b).toNat = b.toNat := by
  have hb := b.isLt
  simp only [zext16, BitVec.toNat_setWidth]
  omega

/-- R34: the stack byte of a stack pointer is in page 1. -/
theorem stackAddr_toNat (sp : Byte) : (stackAddr sp).toNat = 256 + sp.toNat := by
  have hs := sp.isLt
  have h256 : (0x0100 : Address).toNat = 256 := rfl
  simp only [stackAddr, stackPage, BitVec.toNat_add, zext16_toNat, h256]
  omega

theorem stackAddr_inj {p q : Byte} (h : stackAddr p = stackAddr q) : p = q := by
  have := congrArg BitVec.toNat h
  rw [stackAddr_toNat, stackAddr_toNat] at this
  exact BitVec.eq_of_toNat_eq (by omega)

theorem stackAddr_toNat_ne {p q : Byte} (h : p ≠ q) : (stackAddr p).toNat ≠ (stackAddr q).toNat :=
  fun e => h (stackAddr_inj (BitVec.eq_of_toNat_eq e))

/-- R159: the high byte of an indirect jump's target is at the next address, or, at the end of a page, at the start of
the same page. -/
theorem indirectHigh_eq (w : Address) : indirectHigh w = if lo w = 0xFF then w &&& 0xFF00 else w + 1 := by
  have hw := w.isLt
  have hl := lo_toNat w
  split
  · next h =>
    apply BitVec.eq_of_toNat_eq
    have hm : (w &&& 0xFF00).toNat = w.toNat / 256 * 256 := by
      rw [BitVec.toNat_and]
      have e : (0xFF00 : Address).toNat = 255 * 2 ^ 8 := rfl
      apply Nat.eq_of_testBit_eq
      intro k
      rw [Nat.testBit_and, e, Nat.testBit_mul_two_pow, show w.toNat / 256 * 256 = w.toNat / 2 ^ 8 * 2 ^ 8 from rfl,
        Nat.testBit_mul_two_pow, Nat.testBit_div_two_pow]
      by_cases hk : 8 ≤ k
      · have e2 : (255 : Nat) = 2 ^ 8 - 1 := rfl
        rw [e2, Nat.testBit_two_pow_sub_one, show k - 8 + 8 = k by omega]
        by_cases h16 : k < 16
        · have : k - 8 < 8 := by omega
          simp [hk, this]
        · rw [Nat.testBit_lt_two_pow (lt_of_lt_of_le hw (Nat.pow_le_pow_right (by omega) (by omega : 16 ≤ k)))]
          simp
      · simp [hk]
    have h0 : ((0xFF : Byte) + 1).toNat = 0 := by decide
    rw [indirectHigh, pair_toNat, hi_toNat, hm, h, h0, Nat.add_zero]
  · next h =>
    apply BitVec.eq_of_toNat_eq
    have h255 : (lo w).toNat ≠ 255 := fun e => h (BitVec.eq_of_toNat_eq e)
    rw [hl] at h255
    have h8 : (1 : Byte).toNat = 1 := rfl
    have h16 : (1 : Address).toNat = 1 := rfl
    rw [indirectHigh, pair_toNat, hi_toNat, BitVec.toNat_add, BitVec.toNat_add, hl, h8, h16]
    omega

/-- The sign bit of a byte. -/
theorem getLsbD_seven (x : Byte) : x.getLsbD 7 = decide (128 ≤ x.toNat) := by
  have h := BitVec.msb_eq_decide x
  rw [BitVec.msb_eq_getLsbD_last] at h
  exact h

/-- A byte as a signed number. -/
theorem toInt_byte (x : Byte) : x.toInt = if 128 ≤ x.toNat then (x.toNat : Int) - 256 else x.toNat := by
  rw [BitVec.toInt_eq_toNat_cond]
  split <;> split <;> omega

end Sys2Proof.Machine
end

