-- ==== Sys2Proof/Laws/Memory.lean ====
section
/-! SUPPORT. The laws of memory: a read after a write, and the canonical form. -/

namespace Sys2Proof.Machine

theorem Memory.wfFrom_mono {lo lo' : Nat} (h : lo' ≤ lo) :
    {m : List Host.Cell} → Memory.wfFrom lo m = true → Memory.wfFrom lo' m = true
  | [], _ => rfl
  | (a, v) :: rest, hm => by
    simp only [Memory.wfFrom, Bool.and_eq_true, decide_eq_true_eq] at hm ⊢
    exact ⟨⟨⟨by omega, hm.1.1.2⟩, hm.1.2⟩, hm.2⟩

/-- In a canonical memory an address below every listed one reads as unlisted. -/
theorem readByte_below {lo a : Nat} (h : a < lo) :
    {m : List Host.Cell} → Memory.wfFrom lo m = true → readByte m a = unlistedByte
  | [], _ => rfl
  | (b, v) :: rest, hm => by
    simp only [Memory.wfFrom, Bool.and_eq_true, decide_eq_true_eq] at hm
    have hb : a ≠ b := by omega
    simp only [readByte, hb, if_false]
    exact readByte_below (by omega) hm.2

/-- A write keeps the canonical form. -/
theorem wfFrom_writeByte {lo a : Nat} (v : Byte) (hlo : lo ≤ a) (ha : a < 65536) :
    {m : List Host.Cell} → Memory.wfFrom lo m = true → Memory.wfFrom lo (writeByte m a v) = true
  | [], _ => by
    by_cases hv : v = unlistedByte <;> simp [writeByte, Memory.wfFrom, hv, hlo, ha]
  | (b, u) :: rest, hm => by
    simp only [Memory.wfFrom, Bool.and_eq_true, decide_eq_true_eq] at hm
    obtain ⟨⟨⟨h1, h2⟩, h3⟩, h4⟩ := hm
    simp only [writeByte]
    split_ifs with hab hv heq hv
    · simp [Memory.wfFrom, h1, h2, h3, h4]
    · have h5 : a + 1 ≤ b := by omega
      simp [Memory.wfFrom, hlo, ha, hv, h2, h3, h4, h5]
    · exact Memory.wfFrom_mono (by omega) h4
    · subst heq
      simp [Memory.wfFrom, hlo, ha, hv, h4]
    · have h5 := wfFrom_writeByte v (show b + 1 ≤ a by omega) ha h4
      simp [Memory.wfFrom, h1, h2, h3, h5]

theorem wf_writeByte {m : List Host.Cell} (h : Memory.wf m = true) (a : Address) (v : Byte) :
    Memory.wf (writeByte m a.toNat v) = true :=
  wfFrom_writeByte v (Nat.zero_le _) a.isLt h

theorem wf_placeBytes {m : List Host.Cell} (h : Memory.wf m = true) (a : Address) (bs : List Byte) :
    Memory.wf (placeBytes m a bs) = true := by
  induction bs generalizing m a with
  | nil => exact h
  | cons v rest ih => exact ih (wf_writeByte h a v) (a + 1)

theorem readByte_writeByte_same_from {lo a : Nat} (v : Byte) :
    {m : List Host.Cell} → Memory.wfFrom lo m = true → readByte (writeByte m a v) a = v
  | [], _ => by
    by_cases hv : v = unlistedByte <;> simp [writeByte, readByte, hv]
  | (b, u) :: rest, hm => by
    have hm' := hm
    simp only [Memory.wfFrom, Bool.and_eq_true, decide_eq_true_eq] at hm
    obtain ⟨⟨⟨h1, h2⟩, h3⟩, h4⟩ := hm
    simp only [writeByte]
    split_ifs with hab hv heq hv
    · have hb : a ≠ b := by omega
      simp only [readByte, hb, if_false]
      rw [readByte_below (show a < b + 1 by omega) h4, hv]
    · simp [readByte]
    · subst heq
      rw [readByte_below (Nat.lt_succ_self a) h4, hv]
    · simp [readByte]
    · simp only [readByte, heq, if_false]
      exact readByte_writeByte_same_from v h4

/-- R92: a read returns the byte last written to the address. -/
theorem readByte_writeByte_same {m : List Host.Cell} (h : Memory.wf m = true) (a : Nat) (v : Byte) :
    readByte (writeByte m a v) a = v :=
  readByte_writeByte_same_from v h

/-- A write leaves every other address alone. -/
theorem readByte_writeByte_other {a c : Nat} (v : Byte) (hc : c ≠ a) :
    (m : List Host.Cell) → readByte (writeByte m a v) c = readByte m c
  | [] => by
    by_cases hv : v = unlistedByte <;> simp [writeByte, readByte, hv, hc]
  | (b, u) :: rest => by
    simp only [writeByte]
    split_ifs with hab hv heq hv
    · rfl
    · simp [readByte, hc]
    · subst heq
      simp [readByte, hc]
    · subst heq
      simp [readByte, hc]
    · simp only [readByte, readByte_writeByte_other v hc rest]

end Sys2Proof.Machine
end

