-- ==== Sys2Proof/Laws/Lines.lean ====
section
/-! SUPPORT. What every operation keeps of the invariant: the lines of the timers in `IntStatus`, the NMI slot, the
canonical form of memory, and a countdown that is running. -/

namespace Sys2Proof.Machine

/-- The lines of the timers and the NMI slot (R493, R418). -/
structure Lines (s : State) : Prop where
  line0 : s.irq.status.getLsbD 0 = s.via0.top
  line1 : s.irq.status.getLsbD 1 = s.via1.top
  nmi   : s.irq.status.getLsbD 7 = false

/-- What an operation keeps. -/
structure Keeps (s t : State) : Prop where
  lines     : Lines s → Lines t
  wf        : Memory.wf s.mem = true → Memory.wf t.mem = true
  countdown : s.irq.countdown ≠ none → t.irq.countdown ≠ none

theorem Keeps.refl (s : State) : Keeps s s := ⟨id, id, id⟩

theorem Keeps.trans {s t u : State} (h : Keeps s t) (k : Keeps t u) : Keeps s u :=
  ⟨k.lines ∘ h.lines, k.wf ∘ h.wf, k.countdown ∘ h.countdown⟩

/-- A change of nothing that the invariant is about. -/
theorem Keeps.of_same {s t : State} (h0 : t.via0 = s.via0) (h1 : t.via1 = s.via1) (hi : t.irq.status = s.irq.status)
    (hc : t.irq.countdown = s.irq.countdown) (hm : t.mem = s.mem) : Keeps s t :=
  ⟨fun h => ⟨by rw [hi, h0]; exact h.line0, by rw [hi, h1]; exact h.line1, by rw [hi]; exact h.nmi⟩,
    by rw [hm]; exact id, by rw [hc]; exact id⟩

/-! ### The bits of `IntStatus` -/

theorem withBits_getLsbD (mask : Byte) (on : Bool) (v : Byte) {k : Nat} (hk : k < 8) :
    (withBits mask on v).getLsbD k = if mask.getLsbD k then on else v.getLsbD k := by
  unfold withBits
  rw [BitVec.getLsbD_eq_getElem hk, BitVec.getLsbD_eq_getElem hk, BitVec.getLsbD_eq_getElem hk]
  cases on <;> cases h : mask[k] <;> simp [h]

theorem line_mask_bits : (lineMask .t0).getLsbD 0 = true ∧ (lineMask .t0).getLsbD 1 = false ∧
    (lineMask .t0).getLsbD 7 = false ∧ (lineMask .t1).getLsbD 0 = false ∧ (lineMask .t1).getLsbD 1 = true ∧
    (lineMask .t1).getLsbD 7 = false := by decide

/-- R493: after the line update of a peripheral whose neighbour's line is right, every line is right. -/
theorem lines_lineUpdate {i : TimerId} {s : State} (h0 : i ≠ .t0 → s.irq.status.getLsbD 0 = s.via0.top)
    (h1 : i ≠ .t1 → s.irq.status.getLsbD 1 = s.via1.top) (h7 : s.irq.status.getLsbD 7 = false) :
    Lines (lineUpdate i s) := by
  obtain ⟨a, b, c, d, e, f⟩ := line_mask_bits
  cases i
  · have h1 := h1 (by decide)
    constructor <;> simp only [lineUpdate_irq, lineUpdate_via0, lineUpdate_via1] <;>
      rw [withBits_getLsbD _ _ _ (by decide)]
    · rw [a]; rfl
    · rw [b]; exact h1
    · rw [c]; exact h7
  · have h0 := h0 (by decide)
    constructor <;> simp only [lineUpdate_irq, lineUpdate_via0, lineUpdate_via1] <;>
      rw [withBits_getLsbD _ _ _ (by decide)]
    · rw [d]; exact h0
    · rw [e]; rfl
    · rw [f]; exact h7

theorem keeps_updateVia (i : TimerId) (f : Via → Via) (s : State) : Keeps s (updateVia i f s) := by
  refine ⟨fun h => lines_lineUpdate (fun hi => ?_) (fun hi => ?_) ?_, by simp, ?_⟩
  · cases i
    · exact absurd rfl hi
    · exact h.line0
  · cases i
    · exact h.line1
    · exact absurd rfl hi
  · rw [setVia_irq]; exact h.nmi
  · simp [updateVia]

/-- A change of a peripheral that leaves IFR and IER needs no line update. -/
theorem keeps_setVia {s : State} {i : TimerId} {v : Via} (hf : v.ifr = (s.via i).ifr) (he : v.ier = (s.via i).ier) :
    Keeps s (s.setVia i v) := by
  have ht : v.top = (s.via i).top := by unfold Via.top; rw [hf, he]
  refine ⟨fun h => ?_, by simp, by simp⟩
  cases i
  · exact ⟨h.line0.trans ht.symm, h.line1, h.nmi⟩
  · exact ⟨h.line0, h.line1.trans ht.symm, h.nmi⟩

/-! ### Time -/

theorem keeps_claim (e : Bool) (c : Int) (s : State) : Keeps s (claim e c s) := by
  unfold claim
  split
  · exact ⟨fun h => ⟨h.line0, h.line1, h.nmi⟩, id, by simp⟩
  · exact Keeps.refl s

theorem keeps_t1Poll (i : TimerId) (s : State) : Keeps s (t1Poll i s) := by
  have h1 : Keeps s (t1Fire i s) := by
    unfold t1Fire
    split
    · exact (keeps_updateVia _ _ _).trans (keeps_claim _ _ _)
    · exact Keeps.refl s
  unfold t1Poll
  dsimp only
  split
  · exact h1.trans (keeps_setVia rfl rfl)
  · exact h1

theorem keeps_t2Poll (i : TimerId) (s : State) : Keeps s (t2Poll i s) := by
  have h1 : Keeps s (t2Fire i s) := by
    unfold t2Fire
    split
    · exact (keeps_updateVia _ _ _).trans (keeps_claim _ _ _)
    · exact Keeps.refl s
  unfold t2Poll
  dsimp only
  split
  · exact h1.trans (keeps_setVia rfl rfl)
  · exact h1

theorem keeps_timerAdvance (i : TimerId) (n : Nat) (s : State) : Keeps s (timerAdvance i n s) :=
  ((keeps_setVia (v := (s.via i).count n) rfl rfl).trans (keeps_t1Poll i _)).trans (keeps_t2Poll i _)

theorem keeps_record (r : ExtRecord) (s : State) : Keeps s (s.record r) := Keeps.of_same rfl rfl rfl rfl rfl

theorem keeps_guarded {α : Type} {s : State} {c : Call α} (h : Keeps s c.state) : Keeps s (guarded s c).state := by
  unfold guarded
  split
  · exact Keeps.refl s
  · exact h

theorem keeps_callErr {α : Type} (e : Fault) (s : State) : Keeps s (callErr e s : Call α).state :=
  Keeps.of_same rfl rfl rfl rfl rfl

/-- R410: the port of an external source touches neither a timer's line nor the NMI slot. -/
theorem keeps_writeSource {id : Nat} (h : 2 ≤ id ∧ id ≤ 6) (on : Bool) (s : State) : Keeps s (writeSource id on s) := by
  have hb : (1#8 <<< id).getLsbD 0 = false ∧ (1#8 <<< id).getLsbD 1 = false ∧ (1#8 <<< id).getLsbD 7 = false := by
    obtain ⟨h2, h6⟩ := h
    interval_cases id <;> decide
  refine ⟨fun l => ?_, by simp, by simp⟩
  constructor <;> simp only [writeSource_irq, writeSource_via0, writeSource_via1] <;>
    rw [withBits_getLsbD _ _ _ (by decide)]
  · rw [hb.1]; exact l.line0
  · rw [hb.2.1]; exact l.line1
  · rw [hb.2.2]; exact l.nmi

theorem keeps_portWrite (id : Nat) (on : Bool) (s : State) : Keeps s (portWrite id on s).state := by
  refine keeps_guarded ?_
  split
  · next h => exact keeps_writeSource (by simpa [externalSource] using h) on s
  · exact keeps_callErr _ s

theorem keeps_keepTrigger {s : State} (k : Nat) {c : Call Trigger} (h : Keeps s c.state) :
    Keeps s (keepTrigger k c) := by
  unfold keepTrigger
  split
  · exact h.trans (Keeps.of_same rfl rfl rfl rfl rfl)
  · exact h

theorem keeps_extEvent (e : ExtEvent) (s : State) : Keeps s (extEvent e s) := by
  cases e with
  | setSource id => exact keeps_portWrite id true s
  | clearSource id => exact keeps_portWrite id false s
  | signal i line =>
    simp only [extEvent, signalIfRunning]
    split
    · exact Keeps.refl s
    · exact keeps_updateVia _ _ _
  | setPins i port v => exact Keeps.of_same rfl rfl rfl rfl rfl
  | schedule k d => exact keeps_keepTrigger k (keeps_guarded (Keeps.refl s))
  | reschedule k d =>
    refine keeps_keepTrigger k (keeps_guarded ?_)
    cases s.ext.trigger k
    · exact keeps_callErr _ s
    · exact Keeps.refl s
  | clear k => exact keeps_keepTrigger k (keeps_guarded (Keeps.refl s))

theorem keeps_extEvents (es : List ExtEvent) (s : State) : Keeps s (extEvents es s) := by
  induction es generalizing s with
  | nil => exact Keeps.refl s
  | cons e rest ih => exact (keeps_extEvent e s).trans (ih _)

theorem keeps_extRespond (s : State) : Keeps s (extRespond s) := by
  unfold extRespond
  split
  · exact Keeps.refl s
  · next now later _ =>
    have h : Keeps s { s with ext := { s.ext with script := later } } := Keeps.of_same rfl rfl rfl rfl rfl
    exact h.trans (keeps_extEvents _ _)

theorem keeps_extAdvance (n : Nat) (s : State) : Keeps s (extAdvance n s) :=
  (keeps_record _ s).trans (keeps_extRespond _)

theorem keeps_chargeTime (n : Nat) (s : State) : Keeps s (chargeTime n s) := by
  refine ⟨fun h => ⟨h.line0, h.line1, h.nmi⟩, id, ?_⟩
  rw [chargeTime_irq]
  cases s.irq.countdown <;> simp [countDown]

theorem keeps_advance (n : Nat) (s : State) : Keeps s (advance n s) := by
  unfold advance
  split
  · exact Keeps.refl s
  · exact (((keeps_chargeTime n s).trans (keeps_timerAdvance _ n _)).trans (keeps_timerAdvance _ n _)).trans
      (keeps_extAdvance n _)

/-! ### Accesses -/

theorem keeps_accessPortA {i : TimerId} {s t : State} (h : accessPortA i s = .next t) : Keeps s t := by
  unfold accessPortA at h
  split at h
  · simp at h
  · cases h; exact keeps_updateVia _ _ _

theorem keeps_accessPortB {i : TimerId} {s t : State} (h : accessPortB i s = .next t) : Keeps s t := by
  unfold accessPortB at h
  split at h
  · simp at h
  · cases h; exact keeps_updateVia _ _ _

theorem keeps_accessSR {i : TimerId} {s t : State} (h : accessSR i s = .next t) : Keeps s t := by
  unfold accessSR at h
  split at h
  · simp at h
  · cases h; exact keeps_updateVia _ _ _

theorem keeps_timerRead {i : TimerId} {off : Nat} {s : State} {r : Byte × State} (h : timerRead i off s = .next r) :
    Keeps s r.2 := by
  unfold timerRead yieldByte at h
  split at h <;> first
    | (obtain ⟨u, hu, hk⟩ := andThen_eq_next.mp h
       cases hk
       first | exact keeps_accessPortB hu | exact keeps_accessPortA hu | exact keeps_accessSR hu)
    | (simp at h; done)
    | (cases h; dsimp only; first | exact Keeps.refl s | exact keeps_updateVia _ _ _)

theorem keeps_timerWrite {i : TimerId} {off : Nat} {v : Byte} {s t : State} (h : timerWrite i off v s = .next t) :
    Keeps s t := by
  unfold timerWrite at h
  split at h <;> first
    | (obtain ⟨u, hu, hk⟩ := andThen_eq_next.mp h
       cases hk
       refine Keeps.trans ?_ (keeps_setVia rfl rfl)
       first | exact keeps_accessPortB hu | exact keeps_accessPortA hu | exact keeps_accessSR hu)
    | (simp at h; done)
    | (cases h; first | exact keeps_setVia rfl rfl | exact keeps_updateVia _ _ _)

theorem keeps_busRead {a : Address} {s : State} {r : Byte × State} (h : busRead a s = .next r) : Keeps s r.2 := by
  unfold busRead at h
  split at h
  · exact keeps_timerRead h
  · cases h; exact keeps_record _ s
  · cases h; exact keeps_record _ s

theorem keeps_busWrite {a : Address} {v : Byte} {s t : State} (h : busWrite a v s = .next t) : Keeps s t := by
  unfold busWrite at h
  split at h
  · exact keeps_timerWrite h
  · cases h; exact keeps_record _ s
  · cases h; exact ⟨fun h => ⟨h.line0, h.line1, h.nmi⟩, fun hw => wf_writeByte hw a v, id⟩

theorem keeps_ioWait (k : AccessKind) (a : Address) (s : State) : Keeps s (ioWait k a s) :=
  (keeps_advance (waitIn a k s.platform.ioWait) s).trans (Keeps.of_same rfl rfl rfl rfl rfl)

theorem keeps_memRead {k : AccessKind} {a : Address} {s : State} {r : Byte × State} (h : memRead k a s = .next r) :
    Keeps s r.2 := by
  obtain ⟨q, hq, hk⟩ := andThen_eq_next.mp h
  cases hk
  exact (keeps_busRead hq).trans (keeps_ioWait _ _ _)

theorem keeps_memWrite {a : Address} {v : Byte} {s t : State} (h : memWrite a v s = .next t) : Keeps s t := by
  obtain ⟨q, hq, hk⟩ := andThen_eq_next.mp h
  cases hk
  exact (keeps_busWrite hq).trans (keeps_ioWait _ _ _)

theorem keeps_memRead16 {a b : Address} {s : State} {r : Address × State} (h : memRead16 a b s = .next r) :
    Keeps s r.2 := by
  obtain ⟨l, hl, h2⟩ := andThen_eq_next.mp h
  obtain ⟨k, hk, h3⟩ := andThen_eq_next.mp h2
  cases h3
  exact (keeps_memRead hl).trans (keeps_memRead hk)

theorem keeps_resolve {m : EaMode} {s : State} {r : Resolved × State} (h : resolve m s = .next r) : Keeps s r.2 := by
  cases m <;> first
    | (cases h; exact Keeps.refl s)
    | (obtain ⟨q, hq, hk⟩ := andThen_eq_next.mp h
       cases hk
       exact keeps_memRead16 hq)

theorem keeps_gatedRead {t : Timing} {r : Resolved} {s : State} {q : Byte × State} (h : gatedRead t r s = .next q) :
    Keeps s q.2 :=
  (keeps_advance _ s).trans (keeps_memRead h)

theorem keeps_gatedWrite {t : Timing} {a : Address} {v : Byte} {s u : State} (h : gatedWrite t a v s = .next u) :
    Keeps s u :=
  (keeps_advance _ s).trans (keeps_memWrite h)

theorem keeps_load {t : Timing} {o : Operand} {s : State} {r : Byte × State} (h : load t o s = .next r) :
    Keeps s r.2 := by
  cases o
  · cases h; exact Keeps.refl s
  · obtain ⟨q, hq, hk⟩ := andThen_eq_next.mp h
    exact (keeps_resolve hq).trans (keeps_gatedRead hk)

theorem keeps_regs (s : State) (r : Regs) : Keeps s { s with regs := r } := Keeps.of_same rfl rfl rfl rfl rfl

theorem keeps_push {v : Byte} {s t : State} (h : push v s = .next t) : Keeps s t := by
  obtain ⟨u, hu, hk⟩ := andThen_eq_next.mp h
  cases hk
  exact (keeps_memWrite hu).trans (keeps_regs _ _)

theorem keeps_push16 {w : Address} {s t : State} (h : push16 w s = .next t) : Keeps s t := by
  obtain ⟨u, hu, hk⟩ := andThen_eq_next.mp h
  exact (keeps_push hu).trans (keeps_push hk)

theorem keeps_pop {s : State} {r : Byte × State} (h : pop s = .next r) : Keeps s r.2 :=
  (keeps_regs s _).trans (keeps_memRead h)

theorem keeps_pop16 {s : State} {r : Address × State} (h : pop16 s = .next r) : Keeps s r.2 := by
  obtain ⟨l, hl, h2⟩ := andThen_eq_next.mp h
  obtain ⟨k, hk, h3⟩ := andThen_eq_next.mp h2
  cases h3
  exact (keeps_pop hl).trans (keeps_pop hk)

theorem keeps_takeException {ret : Address} {brk : Bool} {s t : State} (h : takeException ret brk s = .next t) :
    Keeps s t := by
  obtain ⟨u, hu, h2⟩ := andThen_eq_next.mp h
  obtain ⟨v, hv, h3⟩ := andThen_eq_next.mp h2
  obtain ⟨r, hr, h4⟩ := andThen_eq_next.mp h3
  cases h4
  exact (((keeps_push16 hu).trans (keeps_push hv)).trans ((keeps_regs v _).trans (keeps_memRead16 hr))).trans
    (keeps_regs _ _)

theorem keeps_returnFromException {s t : State} (h : returnFromException s = .next t) : Keeps s t := by
  obtain ⟨r, hr, h2⟩ := andThen_eq_next.mp h
  obtain ⟨x, hx, hk⟩ := andThen_eq_next.mp h2
  cases hk
  exact ((keeps_pop hr).trans ((keeps_regs r.2 _).trans (keeps_pop16 hx))).trans (keeps_regs _ _)

theorem keeps_finish {t : Timing} {s u : State} (h : finish t s = .next u) : Keeps s u := by
  cases h
  exact keeps_advance _ s

theorem keeps_fetch {s : State} {r : Byte × State} (h : fetch s = .next r) : Keeps s r.2 := by
  obtain ⟨q, hq, hk⟩ := andThen_eq_next.mp h
  cases hk
  exact (keeps_memRead hq).trans (keeps_regs _ _)

theorem keeps_addTotal (n : Nat) (s : State) : Keeps s (addTotal n s) := by
  unfold addTotal wrapCheck
  split <;> exact Keeps.of_same rfl rfl rfl rfl rfl

end Sys2Proof.Machine
end

