-- ==== Sys2Proof/Laws/Blind.lean ====
section
/-! SUPPORT. Time is blind to the registers and to memory (R197): the timers and the environment do the same whatever
those hold. -/

namespace Sys2Proof.Machine

/-- The state with other registers and another memory. -/
def withRegsMem (r : Regs) (m : List Host.Cell) (s : State) : State := { s with regs := r, mem := m }

variable (r : Regs) (m : List Host.Cell)

theorem withRegsMem_via (s i) : (withRegsMem r m s).via i = s.via i := by cases i <;> rfl

theorem withRegsMem_setVia (s i v) : (withRegsMem r m s).setVia i v = withRegsMem r m (s.setVia i v) := by cases i <;> rfl

theorem withRegsMem_lineUpdate (i s) : lineUpdate i (withRegsMem r m s) = withRegsMem r m (lineUpdate i s) := by cases i <;> rfl

theorem withRegsMem_updateVia (i f s) : updateVia i f (withRegsMem r m s) = withRegsMem r m (updateVia i f s) := by
  simp only [updateVia, withRegsMem_via, withRegsMem_setVia, withRegsMem_lineUpdate]

theorem withRegsMem_irq (s) : (withRegsMem r m s).irq = s.irq := rfl

theorem withRegsMem_ext (s) : (withRegsMem r m s).ext = s.ext := rfl

theorem withRegsMem_claim (e c s) : claim e c (withRegsMem r m s) = withRegsMem r m (claim e c s) := by
  unfold claim; simp only [withRegsMem_irq]; rw [apply_ite (withRegsMem r m)]; rfl

theorem withRegsMem_t1Fire (i s) : t1Fire i (withRegsMem r m s) = withRegsMem r m (t1Fire i s) := by
  unfold t1Fire; simp only [withRegsMem_via, withRegsMem_updateVia, withRegsMem_claim]; rw [apply_ite (withRegsMem r m)]

theorem withRegsMem_t2Fire (i s) : t2Fire i (withRegsMem r m s) = withRegsMem r m (t2Fire i s) := by
  unfold t2Fire; simp only [withRegsMem_via, withRegsMem_updateVia, withRegsMem_claim]; rw [apply_ite (withRegsMem r m)]

theorem withRegsMem_t1Poll (i s) : t1Poll i (withRegsMem r m s) = withRegsMem r m (t1Poll i s) := by
  unfold t1Poll; simp only [withRegsMem_t1Fire, withRegsMem_via, withRegsMem_setVia]; rw [apply_ite (withRegsMem r m)]

theorem withRegsMem_t2Poll (i s) : t2Poll i (withRegsMem r m s) = withRegsMem r m (t2Poll i s) := by
  unfold t2Poll; simp only [withRegsMem_t2Fire, withRegsMem_via, withRegsMem_setVia]; rw [apply_ite (withRegsMem r m)]

theorem withRegsMem_timerAdvance (i n s) : timerAdvance i n (withRegsMem r m s) = withRegsMem r m (timerAdvance i n s) := by
  simp only [timerAdvance, withRegsMem_via, withRegsMem_setVia, withRegsMem_t1Poll, withRegsMem_t2Poll]

theorem withRegsMem_port (id on s) : (portWrite id on (withRegsMem r m s)).state = withRegsMem r m (portWrite id on s).state := by
  unfold portWrite guarded
  cases h : s.fault <;> (simp only [show (withRegsMem r m s).fault = s.fault from rfl, h]; try rfl)
  split <;> rfl

theorem withRegsMem_extEvent (e s) : extEvent e (withRegsMem r m s) = withRegsMem r m (extEvent e s) := by
  cases e with
  | setSource id => exact withRegsMem_port r m id true s
  | clearSource id => exact withRegsMem_port r m id false s
  | signal i line =>
    simp only [extEvent, signalIfRunning, show (withRegsMem r m s).fault = s.fault from rfl]
    split
    · rfl
    · exact withRegsMem_updateVia r m _ _ _
  | setPins i p v => rfl
  | schedule k d =>
    simp only [extEvent, scheduleTrigger, guarded, show (withRegsMem r m s).fault = s.fault from rfl]
    cases s.fault <;> rfl
  | reschedule k d =>
    simp only [extEvent, rescheduleTrigger, guarded, show (withRegsMem r m s).fault = s.fault from rfl, withRegsMem_ext]
    cases s.fault <;> cases s.ext.trigger k <;> rfl
  | clear k =>
    simp only [extEvent, clearTrigger, guarded, show (withRegsMem r m s).fault = s.fault from rfl]
    cases s.fault <;> rfl

theorem withRegsMem_extEvents (es s) : extEvents es (withRegsMem r m s) = withRegsMem r m (extEvents es s) := by
  induction es generalizing s with
  | nil => rfl
  | cons e rest ih => simp only [extEvents, withRegsMem_extEvent, ih]

theorem withRegsMem_extRespond (s) : extRespond (withRegsMem r m s) = withRegsMem r m (extRespond s) := by
  unfold extRespond
  rw [withRegsMem_ext]
  split
  · rfl
  · exact withRegsMem_extEvents r m _ { s with ext := { s.ext with script := _ } }

theorem withRegsMem_record (x s) : (withRegsMem r m s).record x = withRegsMem r m (s.record x) := rfl

theorem withRegsMem_extAdvance (n s) : extAdvance n (withRegsMem r m s) = withRegsMem r m (extAdvance n s) := by
  simp only [extAdvance, withRegsMem_record, withRegsMem_extRespond]

end Sys2Proof.Machine
end

