-- ==== Sys2Proof/Laws/Cost.lean ====
section
/-! SUPPORT. What time and bus accesses add to the cost accumulators (R189): an advance charges its cycles, an access
its wait, and nothing else charges. -/

namespace Sys2Proof.Machine

/-! ### Nothing but the charge writes the scheduler -/

@[simp] theorem claim_sched (e : Bool) (c : Int) (s : State) : (claim e c s).sched = s.sched := by
  unfold claim; split <;> rfl

@[simp] theorem t1Fire_sched (i : TimerId) (s : State) : (t1Fire i s).sched = s.sched := by
  unfold t1Fire; split <;> simp

@[simp] theorem t2Fire_sched (i : TimerId) (s : State) : (t2Fire i s).sched = s.sched := by
  unfold t2Fire; split <;> simp

@[simp] theorem t1Poll_sched (i : TimerId) (s : State) : (t1Poll i s).sched = s.sched := by
  unfold t1Poll; dsimp only; split <;> simp

@[simp] theorem t2Poll_sched (i : TimerId) (s : State) : (t2Poll i s).sched = s.sched := by
  unfold t2Poll; dsimp only; split <;> simp

@[simp] theorem timerAdvance_sched (i : TimerId) (n : Nat) (s : State) : (timerAdvance i n s).sched = s.sched := by
  simp [timerAdvance]

theorem guarded_sched {α : Type} {s : State} {c : Call α} (h : c.state.sched = s.sched) :
    (guarded s c).state.sched = s.sched := by
  unfold guarded; split
  · rfl
  · exact h

theorem portWrite_sched (id : Nat) (on : Bool) (s : State) : (portWrite id on s).state.sched = s.sched := by
  refine guarded_sched ?_
  split <;> rfl

theorem keepTrigger_sched {s : State} (k : Nat) {c : Call Trigger} (h : c.state.sched = s.sched) :
    (keepTrigger k c).sched = s.sched := by
  unfold keepTrigger; split <;> exact h

@[simp] theorem extEvent_sched (e : ExtEvent) (s : State) : (extEvent e s).sched = s.sched := by
  cases e with
  | setSource id => exact portWrite_sched id true s
  | clearSource id => exact portWrite_sched id false s
  | signal i line => simp only [extEvent, signalIfRunning]; split <;> simp [signalControlLine]
  | setPins i port v => rfl
  | schedule k d => exact keepTrigger_sched k (guarded_sched rfl)
  | reschedule k d =>
    refine keepTrigger_sched k (guarded_sched ?_)
    cases s.ext.trigger k <;> rfl
  | clear k => exact keepTrigger_sched k (guarded_sched rfl)

@[simp] theorem extEvents_sched (es : List ExtEvent) (s : State) : (extEvents es s).sched = s.sched := by
  induction es generalizing s with
  | nil => rfl
  | cons e rest ih => simp [extEvents, ih]

@[simp] theorem extRespond_sched (s : State) : (extRespond s).sched = s.sched := by
  unfold extRespond; split <;> simp

@[simp] theorem extAdvance_sched (n : Nat) (s : State) : (extAdvance n s).sched = s.sched := by simp [extAdvance]

@[simp] theorem charge_zero (c : Sched) : c.charge 0 = c := by unfold Sched.charge; split <;> rfl

/-- R196: an advance charges its cycles, to the entry while one runs and to the instruction otherwise. -/
@[simp] theorem advance_sched (n : Nat) (s : State) : (advance n s).sched = s.sched.charge n := by
  unfold advance
  split
  · next h => simp [h]
  · simp

/-! ### Accesses -/

theorem sched_accessPortA {i : TimerId} {s t : State} (h : accessPortA i s = .next t) : t.sched = s.sched := by
  unfold accessPortA at h
  split at h
  · simp at h
  · cases h; simp

theorem sched_accessPortB {i : TimerId} {s t : State} (h : accessPortB i s = .next t) : t.sched = s.sched := by
  unfold accessPortB at h
  split at h
  · simp at h
  · cases h; simp

theorem sched_accessSR {i : TimerId} {s t : State} (h : accessSR i s = .next t) : t.sched = s.sched := by
  unfold accessSR at h
  split at h
  · simp at h
  · cases h; simp

theorem sched_timerRead {i : TimerId} {off : Nat} {s : State} {r : Byte × State} (h : timerRead i off s = .next r) :
    r.2.sched = s.sched := by
  unfold timerRead yieldByte at h
  split at h <;> first
    | (obtain ⟨u, hu, hk⟩ := andThen_eq_next.mp h
       cases hk
       first | exact sched_accessPortB hu | exact sched_accessPortA hu | exact sched_accessSR hu)
    | (simp at h; done)
    | (cases h; simp)

theorem sched_timerWrite {i : TimerId} {off : Nat} {v : Byte} {s t : State} (h : timerWrite i off v s = .next t) :
    t.sched = s.sched := by
  unfold timerWrite at h
  split at h <;> first
    | (obtain ⟨u, hu, hk⟩ := andThen_eq_next.mp h
       cases hk
       rw [setVia_sched]
       first | exact sched_accessPortB hu | exact sched_accessPortA hu | exact sched_accessSR hu)
    | (simp at h; done)
    | (cases h; simp)

theorem sched_busRead {a : Address} {s : State} {r : Byte × State} (h : busRead a s = .next r) :
    r.2.sched = s.sched := by
  unfold busRead at h
  split at h
  · exact sched_timerRead h
  · cases h; rfl
  · cases h; rfl

theorem sched_busWrite {a : Address} {v : Byte} {s t : State} (h : busWrite a v s = .next t) : t.sched = s.sched := by
  unfold busWrite at h
  split at h
  · exact sched_timerWrite h
  · cases h; rfl
  · cases h; rfl

/-- Besides the I/O waits, `n` cycles have been charged between two states: to the instruction outside an interrupt
entry, and to the entry inside one (R196). -/
structure Costs (n : Nat) (s t : State) : Prop where
  inEntry : t.sched.inEntry = s.sched.inEntry
  outside : s.sched.inEntry = false →
    t.sched.instr + s.sched.io = s.sched.instr + t.sched.io + n ∧ t.sched.entry = s.sched.entry
  inside  : s.sched.inEntry = true →
    t.sched.entry + s.sched.io = s.sched.entry + t.sched.io + n ∧ t.sched.instr = s.sched.instr

theorem Costs.cost {n : Nat} {s t : State} (h : Costs n s t) (he : s.sched.inEntry = false) :
    t.sched.instr + s.sched.io = s.sched.instr + t.sched.io + n := (h.outside he).1

theorem Costs.refl (s : State) : Costs 0 s s := ⟨rfl, fun _ => ⟨rfl, rfl⟩, fun _ => ⟨rfl, rfl⟩⟩

theorem Costs.trans {m n : Nat} {s t u : State} (h : Costs m s t) (k : Costs n t u) : Costs (m + n) s u := by
  refine ⟨k.inEntry.trans h.inEntry, fun he => ?_, fun he => ?_⟩
  · have := h.outside he
    have := k.outside (h.inEntry.trans he)
    omega
  · have := h.inside he
    have := k.inside (h.inEntry.trans he)
    omega

theorem Costs.of_sched {s t : State} (h : t.sched = s.sched) : Costs 0 s t :=
  ⟨by rw [h], fun _ => by rw [h]; exact ⟨rfl, rfl⟩, fun _ => by rw [h]; exact ⟨rfl, rfl⟩⟩

theorem Costs.then_sched {n : Nat} {s t u : State} (h : Costs n s t) (e : u.sched = t.sched) : Costs n s u :=
  ⟨by rw [e]; exact h.inEntry, by rw [e]; exact h.outside, by rw [e]; exact h.inside⟩

theorem costs_advance (n : Nat) (s : State) : Costs n s (advance n s) := by
  refine ⟨by rw [advance_sched, charge_inEntry], fun he => ?_, fun he => ?_⟩ <;> simp [Sched.charge, he] <;> omega

theorem advance_io (n : Nat) (s : State) : (advance n s).sched.io = s.sched.io := by
  rw [advance_sched]; unfold Sched.charge; split <;> rfl

theorem costs_ioWait (k : AccessKind) (a : Address) (s : State) : Costs 0 s (ioWait k a s) := by
  have h := costs_advance (waitIn a k s.platform.ioWait) s
  have hio := advance_io (waitIn a k s.platform.ioWait) s
  refine ⟨h.inEntry, fun he => ?_, fun he => ?_⟩
  · have := h.outside he
    simp only [ioWait]
    omega
  · have := h.inside he
    simp only [ioWait]
    omega

theorem costs_memRead {k : AccessKind} {a : Address} {s : State} {r : Byte × State} (h : memRead k a s = .next r) :
    Costs 0 s r.2 := by
  obtain ⟨q, hq, hk⟩ := andThen_eq_next.mp h
  cases hk
  exact (Costs.of_sched (sched_busRead hq)).trans (costs_ioWait _ _ _)

theorem costs_memWrite {a : Address} {v : Byte} {s t : State} (h : memWrite a v s = .next t) : Costs 0 s t := by
  obtain ⟨q, hq, hk⟩ := andThen_eq_next.mp h
  cases hk
  exact (Costs.of_sched (sched_busWrite hq)).trans (costs_ioWait _ _ _)

theorem costs_memRead16 {a b : Address} {s : State} {r : Address × State} (h : memRead16 a b s = .next r) :
    Costs 0 s r.2 := by
  obtain ⟨l, hl, h2⟩ := andThen_eq_next.mp h
  obtain ⟨k, hk, h3⟩ := andThen_eq_next.mp h2
  cases h3
  exact (costs_memRead hl).trans (costs_memRead hk)

theorem costs_resolve {m : EaMode} {s : State} {r : Resolved × State} (h : resolve m s = .next r) :
    Costs 0 s r.2 := by
  cases m <;> first
    | (cases h; exact Costs.refl s)
    | (obtain ⟨q, hq, hk⟩ := andThen_eq_next.mp h
       cases hk
       exact costs_memRead16 hq)

theorem costs_gatedRead {t : Timing} {r : Resolved} {s : State} {q : Byte × State} (h : gatedRead t r s = .next q) :
    Costs (t.readSub + t.crossing r.crossed) s q.2 :=
  Costs.trans (n := 0) (costs_advance _ s) (costs_memRead h)

theorem costs_gatedWrite {t : Timing} {a : Address} {v : Byte} {s u : State} (h : gatedWrite t a v s = .next u) :
    Costs t.writeSub s u :=
  (costs_advance _ s).trans (costs_memWrite h)

theorem costs_push {v : Byte} {s t : State} (h : push v s = .next t) : Costs 0 s t := by
  obtain ⟨u, hu, hk⟩ := andThen_eq_next.mp h
  cases hk
  exact (costs_memWrite hu).trans (Costs.of_sched (t := u.setSp (u.regs.sp - 1)) rfl)

theorem costs_push16 {w : Address} {s t : State} (h : push16 w s = .next t) : Costs 0 s t := by
  obtain ⟨u, hu, hk⟩ := andThen_eq_next.mp h
  exact (costs_push hu).trans (costs_push hk)

theorem costs_pop {s : State} {r : Byte × State} (h : pop s = .next r) : Costs 0 s r.2 :=
  (Costs.of_sched (s := s) (t := s.setSp (s.regs.sp + 1)) rfl).trans (costs_memRead h)

theorem costs_pop16 {s : State} {r : Address × State} (h : pop16 s = .next r) : Costs 0 s r.2 := by
  obtain ⟨l, hl, h2⟩ := andThen_eq_next.mp h
  obtain ⟨k, hk, h3⟩ := andThen_eq_next.mp h2
  cases h3
  exact (costs_pop hl).trans (costs_pop hk)

theorem costs_takeException {ret : Address} {brk : Bool} {s t : State} (h : takeException ret brk s = .next t) :
    Costs 0 s t := by
  obtain ⟨u, hu, h2⟩ := andThen_eq_next.mp h
  obtain ⟨v, hv, h3⟩ := andThen_eq_next.mp h2
  obtain ⟨r, hr, h4⟩ := andThen_eq_next.mp h3
  cases h4
  have h5 : Costs 0 v (v.setP { v.regs.p with i := true }) := Costs.of_sched rfl
  have h6 : Costs 0 r.2 (r.2.setPc r.1) := Costs.of_sched rfl
  exact (((costs_push16 hu).trans (costs_push hv)).trans (h5.trans (costs_memRead16 hr))).trans h6

theorem costs_returnFromException {s t : State} (h : returnFromException s = .next t) : Costs 0 s t := by
  obtain ⟨r, hr, h2⟩ := andThen_eq_next.mp h
  obtain ⟨x, hx, hk⟩ := andThen_eq_next.mp h2
  cases hk
  have h1 := (costs_pop hr).then_sched (u := r.2.setP (unpackP r.1)) rfl
  exact (h1.trans (costs_pop16 hx)).then_sched rfl

theorem costs_fetch {s : State} {r : Byte × State} (h : fetch s = .next r) : Costs 0 s r.2 := by
  obtain ⟨q, hq, hk⟩ := andThen_eq_next.mp h
  cases hk
  exact (costs_memRead hq).then_sched rfl

/-- The remainder charges what the sub-costs have left of the base, and `BranchExtra`. -/
theorem costs_finish {t : Timing} {s u : State} (h : finish t s = .next u) :
    Costs (t.remainder s) s u ∧ u.sched.branch = s.sched.branch := by
  cases h
  exact ⟨costs_advance _ s, (quiet_advance _ s).branch⟩

end Sys2Proof.Machine
end

