-- ==== Sys2Proof/Laws/Stack.lean ====
section
/-! SUPPORT. The stack and the exceptions over plain memory: what a push, a pushed word, an exception entry and the
pulls answer, said once. -/

namespace Sys2Proof.Machine

theorem StackPlain.congr {n : Nat} : {s t : State} → t.platform = s.platform → t.regs.sp = s.regs.sp →
    StackPlain n s → StackPlain n t := by
  induction n with
  | zero => intros; trivial
  | succ n ih =>
    intro s t hp hs h
    exact ⟨by rw [hp, hs]; exact h.1, ih (s := s.setSp (s.regs.sp - 1)) hp (by simp [hs]) h.2⟩

theorem StackPlain.mono {n : Nat} : {s : State} → StackPlain (n + 1) s → StackPlain n s := by
  induction n with
  | zero => intros; trivial
  | succ n ih => exact fun h => ⟨h.1, ih h.2⟩

/-- The state after a push of a byte to plain memory, but for time. -/
def pushed (v : Byte) (s : State) : State :=
  { s with
    regs := { s.regs with sp := s.regs.sp - 1 }
    mem := writeByte s.mem (stackAddr s.regs.sp).toNat v }

theorem push_plain {s : State} (v : Byte) (h : route s.platform (stackAddr s.regs.sp) = .memory) :
    ∃ t, push v s = .next t ∧ Quiet (pushed v s) t := by
  have q := quiet_ioWait .write (stackAddr s.regs.sp)
    { s.record (.write (stackAddr s.regs.sp) v) with mem := writeByte s.mem (stackAddr s.regs.sp).toNat v }
  refine ⟨_, by rw [push, memWrite_memory v h, andThen_next], ?_⟩
  exact ⟨⟨by rw [setSp_regs, q.regs]; rfl, q.platform, q.total, q.branch, q.inEntry, q.due, q.justSet, q.justCleared⟩,
    q.mem, q.acr0, q.pcr0, q.acr1, q.pcr1⟩

theorem pushed_quiet {s t : State} (v : Byte) (q : Quiet s t) : Quiet (pushed v s) (pushed v t) :=
  ⟨⟨by simp [pushed, q.regs], q.platform, q.total, q.branch, q.inEntry, q.due, q.justSet, q.justCleared⟩,
    by simp [pushed, q.regs, q.mem], q.acr0, q.pcr0, q.acr1, q.pcr1⟩

/-- R145: a word pushed to plain memory: the high byte, then the low byte. -/
theorem push16_plain {s : State} (w : Address) (h : StackPlain 2 s) :
    ∃ t, push16 w s = .next t ∧ Quiet (pushed (lo w) (pushed (hi w) s)) t := by
  obtain ⟨t, ht, q⟩ := push_plain (hi w) h.1
  have h2 : route t.platform (stackAddr t.regs.sp) = .memory := by
    rw [q.platform, q.regs]; exact h.2.1
  obtain ⟨u, hu, r⟩ := push_plain (lo w) h2
  exact ⟨u, by rw [push16, ht, andThen_next, hu], (pushed_quiet _ q).trans r⟩

/-- R374: the frame of an exception, before the vector is read. -/
def framed (ret : Address) (status : Byte) (s : State) : State := pushed status (pushed (lo ret) (pushed (hi ret) s))

@[simp] theorem framed_platform (ret : Address) (v : Byte) (s : State) : (framed ret v s).platform = s.platform := rfl

theorem framed_mem (ret : Address) (v : Byte) (s : State) :
    (framed ret v s).mem =
      writeByte (writeByte (writeByte s.mem (stackAddr s.regs.sp).toNat (hi ret)) (stackAddr (s.regs.sp - 1)).toNat
        (lo ret)) (stackAddr (s.regs.sp - 1 - 1)).toNat v := rfl

theorem sub_one_sub_one (b : Byte) : b - 1 - 1 = b - 2 := by bv_omega

theorem sub_three (b : Byte) : b - 1 - 1 - 1 = b - 3 := by bv_omega

theorem stack_apart (b : Byte) : b ≠ b - 1 ∧ b ≠ b - 2 ∧ b - 1 ≠ b - 2 := by
  refine ⟨?_, ?_, ?_⟩ <;> bv_omega

/-- The bytes of an exception frame in a canonical memory. -/
theorem framed_bytes {s : State} (ret : Address) (v : Byte) (h : Memory.wf s.mem = true) :
    readByte (framed ret v s).mem (stackAddr s.regs.sp).toNat = hi ret ∧
    readByte (framed ret v s).mem (stackAddr (s.regs.sp - 1)).toNat = lo ret ∧
    readByte (framed ret v s).mem (stackAddr (s.regs.sp - 2)).toNat = v := by
  obtain ⟨h1, h2, h3⟩ := stack_apart s.regs.sp
  rw [framed_mem, sub_one_sub_one]
  have w1 := wf_writeByte h (stackAddr s.regs.sp) (hi ret)
  have w2 := wf_writeByte w1 (stackAddr (s.regs.sp - 1)) (lo ret)
  refine ⟨?_, ?_, ?_⟩
  · rw [readByte_writeByte_other _ (stackAddr_toNat_ne h2), readByte_writeByte_other _ (stackAddr_toNat_ne h1),
      readByte_writeByte_same h]
  · rw [readByte_writeByte_other _ (stackAddr_toNat_ne h3), readByte_writeByte_same w1]
  · exact readByte_writeByte_same w2 _ _

/-- A frame changes no byte but its own three. -/
theorem framed_other {s : State} (ret : Address) (v : Byte) {c : Nat} (h1 : c ≠ (stackAddr s.regs.sp).toNat)
    (h2 : c ≠ (stackAddr (s.regs.sp - 1)).toNat) (h3 : c ≠ (stackAddr (s.regs.sp - 2)).toNat) :
    readByte (framed ret v s).mem c = readByte s.mem c := by
  rw [framed_mem, sub_one_sub_one, readByte_writeByte_other _ h3, readByte_writeByte_other _ h2,
    readByte_writeByte_other _ h1]

/-- R372, R415: taking an exception with the frame in plain memory: the state that the pushes leave, with I set and
the program counter loaded, but for time and the side effects of the vector reads. -/
theorem takeException_plain {s : State} (ret : Address) (brk : Bool) (hs : Supported s) (h : StackPlain 3 s) :
    ∃ t w, takeException ret brk s = .next t ∧
      Quiet
        { framed ret (packP brk s.regs.p) s with
          regs := { s.regs with pc := w, sp := s.regs.sp - 3, p := { s.regs.p with i := true } } } t ∧
      (route s.platform 0xFFFE = .memory → route s.platform 0xFFFF = .memory →
        w = pair (readByte s.mem 0xFFFF) (readByte s.mem 0xFFFE)) := by
  obtain ⟨t, ht, q⟩ := push16_plain ret h.mono
  have hp : route t.platform (stackAddr t.regs.sp) = .memory := by
    rw [q.platform, q.regs]; exact h.2.2.1
  have htp : t.regs.p = s.regs.p := by rw [q.regs]; rfl
  obtain ⟨u, hu, r⟩ := push_plain (packP brk t.regs.p) hp
  have qu : Quiet (framed ret (packP brk s.regs.p) s) u := by
    rw [htp] at r
    exact (pushed_quiet _ q).trans r
  have su : Supported (u.setP { u.regs.p with i := true }) := hs.modes qu.acr0 qu.pcr0 qu.acr1 qu.pcr1
  obtain ⟨⟨w, x⟩, hx⟩ := memRead16_answers su irqVector (irqVector + 1)
  have qx : Quiet (u.setP { u.regs.p with i := true }) x := quiet_memRead16 _ _ _ _ hx
  refine ⟨x.setPc w, w, ?_, ?_, ?_⟩
  · rw [takeException, ht, andThen_next, hu, andThen_next, readVector, hx, andThen_next]
  · have hr : x.regs = { s.regs with sp := s.regs.sp - 3, p := { s.regs.p with i := true } } := by
      rw [qx.regs, setP_regs, qu.regs]
      simp [framed, pushed]
      exact sub_three _
    exact ⟨⟨by simp [hr], qx.platform.trans qu.platform, qx.total.trans qu.total, qx.branch.trans qu.branch,
      qx.inEntry.trans qu.inEntry, qx.due.trans qu.due, qx.justSet.trans qu.justSet,
      qx.justCleared.trans qu.justCleared⟩, qx.mem.trans qu.mem, qx.acr0.trans qu.acr0, qx.pcr0.trans qu.pcr0,
      qx.acr1.trans qu.acr1, qx.pcr1.trans qu.pcr1⟩
  · intro h1 h2
    have e := memRead16_memory (s := u.setP { u.regs.p with i := true }) (a := irqVector) (b := irqVector + 1)
      (by rw [setP_platform, qu.platform]; exact h1) (by rw [setP_platform, qu.platform]; exact h2)
    rw [hx] at e
    cases e
    have hm : ∀ c : Nat, 512 ≤ c → readByte u.mem c = readByte s.mem c := by
      intro c hc
      have h3 := fun p : Byte => stackAddr_toNat p
      have h4 := fun p : Byte => p.isLt
      rw [qu.mem]
      refine framed_other ret _ ?_ ?_ ?_ <;> rw [h3] <;> [have := h4 s.regs.sp; have := h4 (s.regs.sp - 1);
        have := h4 (s.regs.sp - 2)] <;> omega
    rw [setP_mem]
    exact congrArg₂ pair (hm 0xFFFF (by decide)) (hm 0xFFFE (by decide))

/-! ### Pulls -/

theorem pop16_quiet {s t : State} {w : Address} (h : pop16 s = .next (w, t)) :
    Quiet (s.setSp (s.regs.sp + 2)) t := by
  obtain ⟨l, hl, h2⟩ := andThen_eq_next.mp h
  obtain ⟨k, hk, h3⟩ := andThen_eq_next.mp h2
  cases h3
  have q1 := quiet_pop l hl
  have q2 := quiet_pop k hk
  have e : s.regs.sp + 1 + 1 = s.regs.sp + 2 := by bv_omega
  refine ⟨⟨by rw [q2.regs, setSp_regs, q1.regs, setSp_regs]; simp; exact e, q2.platform.trans q1.platform,
    q2.total.trans q1.total, q2.branch.trans q1.branch, q2.inEntry.trans q1.inEntry, q2.due.trans q1.due,
    q2.justSet.trans q1.justSet, q2.justCleared.trans q1.justCleared⟩, q2.mem.trans q1.mem, q2.acr0.trans q1.acr0,
    q2.pcr0.trans q1.pcr0, q2.acr1.trans q1.acr1, q2.pcr1.trans q1.pcr1⟩

theorem pop16_plain_value {s t : State} {w : Address} (h : pop16 s = .next (w, t))
    (h1 : route s.platform (stackAddr (s.regs.sp + 1)) = .memory)
    (h2 : route s.platform (stackAddr (s.regs.sp + 2)) = .memory) :
    w = pair (readByte s.mem (stackAddr (s.regs.sp + 2)).toNat) (readByte s.mem (stackAddr (s.regs.sp + 1)).toNat) := by
  obtain ⟨l, hl, h3⟩ := andThen_eq_next.mp h
  obtain ⟨k, hk, h4⟩ := andThen_eq_next.mp h3
  cases h4
  have q1 := quiet_pop l hl
  have e : s.regs.sp + 1 + 1 = s.regs.sp + 2 := by bv_omega
  have er : l.2.regs.sp + 1 = s.regs.sp + 2 := by rw [q1.regs, setSp_regs, ← e]
  have v1 := pop_memory_value h1 hl
  have v2 := pop_memory_value (s := l.2) (by rw [q1.platform, er]; exact h2) hk
  rw [v1, v2, er, q1.mem]
  rfl

/-- R144: a pull from plain memory answers, with the byte of memory. -/
theorem pop_plain {s : State} (h : route s.platform (stackAddr (s.regs.sp + 1)) = .memory) :
    ∃ t, pop s = .next (readByte s.mem (stackAddr (s.regs.sp + 1)).toNat, t) :=
  ⟨_, memRead_memory (s := s.setSp (s.regs.sp + 1)) _ h⟩

/-- R146: a pull of a word from plain memory answers, with the word of memory. -/
theorem pop16_plain {s : State} (h1 : route s.platform (stackAddr (s.regs.sp + 1)) = .memory)
    (h2 : route s.platform (stackAddr (s.regs.sp + 2)) = .memory) :
    ∃ t, pop16 s = .next (pair (readByte s.mem (stackAddr (s.regs.sp + 2)).toNat)
      (readByte s.mem (stackAddr (s.regs.sp + 1)).toNat), t) := by
  obtain ⟨t, ht⟩ := pop_plain h1
  have q := quiet_pop _ ht
  have e : t.regs.sp + 1 = s.regs.sp + 2 := by
    rw [q.regs, setSp_regs]
    show s.regs.sp + 1 + 1 = s.regs.sp + 2
    bv_omega
  obtain ⟨u, hu⟩ := pop_plain (s := t) (by rw [q.platform, e]; exact h2)
  refine ⟨u, ?_⟩
  rw [pop16, ht, andThen_next, hu, andThen_next, e, q.mem]
  rfl

end Sys2Proof.Machine
end

