-- ==== Sys2Proof/Laws/Timer.lean ====
section
/-! SUPPORT. What the timers' own operations do, said once: a claim, a line update, and everything a read of a register
or of the bus keeps. -/

namespace Sys2Proof.Machine

/-- R476, R482: what a claim of the countdown does, and all it does. -/
theorem claim_same (e : Bool) (c : Int) (s : State) :
    (claim e c s).regs = s.regs ∧ (claim e c s).mem = s.mem ∧ (claim e c s).sched = s.sched ∧
      (∀ i, (claim e c s).via i = s.via i) ∧ (claim e c s).irq.due = s.irq.due ∧
      (claim e c s).irq.status = s.irq.status ∧
      (claim e c s).irq.countdown =
        if e = true ∧ s.irq.countdown = none then some (3 + c) else s.irq.countdown := by
  unfold claim
  split
  · exact ⟨rfl, rfl, rfl, fun i => by cases i <;> rfl, rfl, rfl, rfl⟩
  · exact ⟨rfl, rfl, rfl, fun i => rfl, rfl, rfl, rfl⟩

/-- R493: the bit of `IntStatus` that a line update writes holds the line. -/
theorem line_bit (i : TimerId) (on : Bool) (st : Byte) :
    (withBits (lineMask i) on st).getLsbD (timerNumber i) = on := by
  obtain ⟨a, _, _, _, e, _⟩ := line_mask_bits
  cases i
  · rw [withBits_getLsbD _ _ _ (by decide)]; rw [if_pos (by exact a)]
  · rw [withBits_getLsbD _ _ _ (by decide)]; rw [if_pos (by exact e)]

/-- R493: a line update leaves the bits of the external sources and the NMI slot. -/
theorem line_high (i : TimerId) (on : Bool) (v : Byte) (k : Nat) (h : 2 ≤ k) :
    (withBits (lineMask i) on v).getLsbD k = v.getLsbD k := by
  by_cases hk : k < 8
  · have hm : (lineMask i).getLsbD k = false := by interval_cases k <;> cases i <;> decide
    rw [withBits_getLsbD _ _ _ hk, hm]; rfl
  · rw [BitVec.getLsbD_of_ge _ _ (Nat.not_lt.mp hk), BitVec.getLsbD_of_ge _ _ (Nat.not_lt.mp hk)]

theorem t1Bit_enabled : ∀ x : BitVec 7, decide (x &&& t1Bit ≠ 0) = x.getLsbD 6 := by decide +kernel

theorem t2Bit_enabled : ∀ x : BitVec 7, decide (x &&& t2Bit ≠ 0) = x.getLsbD 5 := by decide +kernel

/-- R460: a visible IFR or IER byte, taken apart. -/
theorem topBit_append : ∀ (b : Bool) (x : BitVec 7),
    (BitVec.ofBool b ++ x).setWidth 7 = x ∧ (BitVec.ofBool b ++ x).getLsbD 7 = b := by decide +kernel

theorem portInB_eq (v : Via) (b : Byte) :
    v.portInB b =
      if v.acr.getLsbD 7 then
        (if v.t1Out then portMix v.orb v.ddrb b ||| 0x80 else portMix v.orb v.ddrb b &&& 0x7F)
      else portMix v.orb v.ddrb b := by
  unfold Via.portInB Via.pulseOutput withBits; rfl

/-- What a bus read keeps (R461, R80): it clears flags of a timer, which may free its line, or tells the environment, and
does nothing else. -/
structure ReadKeeps (s t : State) : Prop where
  fault : t.fault = s.fault
  regs : t.regs = s.regs
  sched : t.sched = s.sched
  cd : t.irq.countdown = s.irq.countdown
  due : t.irq.due = s.irq.due
  js : t.irq.justSet = s.irq.justSet
  jc : t.irq.justCleared = s.irq.justCleared
  mem : t.mem = s.mem
  platform : t.platform = s.platform
  ier0 : t.via0.ier = s.via0.ier
  ier1 : t.via1.ier = s.via1.ier
  clear0 : s.via0.ifr = 0 → t.via0 = s.via0
  clear1 : s.via1.ifr = 0 → t.via1 = s.via1
  high : ∀ k : Nat, 2 ≤ k → t.irq.status.getLsbD k = s.irq.status.getLsbD k
  low : (s.via0.ier = 0 ∧ s.via1.ier = 0 ∧ s.irq.status.getLsbD 0 = false ∧ s.irq.status.getLsbD 1 = false) → (t.via0.ier = 0 ∧ t.via1.ier = 0 ∧ t.irq.status.getLsbD 0 = false ∧ t.irq.status.getLsbD 1 = false)

theorem ReadKeeps.refl (s : State) : ReadKeeps s s :=
  ⟨rfl, rfl, rfl, rfl, rfl, rfl, rfl, rfl, rfl, rfl, rfl, fun _ => rfl, fun _ => rfl, fun _ _ => rfl, id⟩

theorem readKeeps_record (r : ExtRecord) (s : State) : ReadKeeps s (s.record r) :=
  ⟨rfl, rfl, rfl, rfl, rfl, rfl, rfl, rfl, rfl, rfl, rfl, fun _ => rfl, fun _ => rfl, fun _ _ => rfl, id⟩

theorem readKeeps_updateVia (i : TimerId) (f : Via → Via) (hf : ∀ v, (f v).ier = v.ier)
    (hc : ∀ v, v.ifr = 0 → f v = v) (s : State) : ReadKeeps s (updateVia i f s) := by
  refine ⟨by simp, by simp, by simp, by simp [updateVia], by simp [updateVia], by simp [updateVia], by simp [updateVia],
    by simp, by simp, ?_, ?_, fun h => ?_, fun h => ?_, ?_, ?_⟩
  · cases i
    · exact hf _
    · rfl
  · cases i
    · rfl
    · exact hf _
  · cases i
    · exact hc _ h
    · rfl
  · cases i
    · rfl
    · exact hc _ h
  · intro k hk
    have : (updateVia i f s).irq.status = withBits (lineMask i) ((s.setVia i (f (s.via i))).via i).top s.irq.status := by simp [updateVia]
    rw [this, line_high _ _ _ _ hk]
  · rintro ⟨h0, h1, b0, b1⟩
    have e0 : (s.via i).ier = 0 := by cases i <;> assumption
    have top : (f (s.via i)).top = false := by simp [Via.top, hf, e0]
    have : (updateVia i f s).irq.status = withBits (lineMask i) false s.irq.status := by simp [updateVia, top]
    rw [this, withBits_getLsbD _ _ _ (by decide), withBits_getLsbD _ _ _ (by decide), b0, b1]
    refine ⟨?_, ?_, by simp, by simp⟩
    · cases i
      · exact (hf _).trans h0
      · exact h0
    · cases i
      · exact h1
      · exact (hf _).trans h1

/-- A read that clears flags: the peripheral with a mask taken from its IFR. -/
theorem readKeeps_mask (i : TimerId) (m : Via → BitVec 7) {f : Via → Via}
    (hf : ∀ v, f v = { v with ifr := v.ifr &&& m v }) (s : State) : ReadKeeps s (updateVia i f s) :=
  readKeeps_updateVia i f (fun v => by rw [hf]) (fun v h => by
    have e : v.ifr &&& m v = v.ifr := by rw [h]; exact BitVec.zero_and
    rw [hf, e]) s

theorem readKeeps_timerRead {i : TimerId} {off : Nat} {s : State} {r : Byte × State} (h : timerRead i off s = .next r) : ReadKeeps s r.2 := by
  have one {o : Result} {b : Byte} (h : andThen o (yieldByte b) = .next r) (hk : ∀ t, o = .next t → ReadKeeps s t) : ReadKeeps s r.2 := by
    obtain ⟨t, ht, hk2⟩ := andThen_eq_next.mp h
    cases hk2
    exact hk t ht
  unfold timerRead at h
  split at h
  · refine one h fun t ht => ?_
    unfold accessPortB at ht
    split at ht
    · simp at ht
    · cases ht; exact readKeeps_mask _ _ (fun _ => rfl) _
  · refine one h fun t ht => ?_
    unfold accessPortA at ht
    split at ht
    · simp at ht
    · cases ht; exact readKeeps_mask _ _ (fun _ => rfl) _
  all_goals first
    | (cases h; exact ReadKeeps.refl s)
    | (cases h; dsimp only; exact readKeeps_mask _ _ (fun _ => rfl) _)
    | (simp at h)
    | skip
  refine one h fun t ht => ?_
  unfold accessSR at ht
  split at ht
  · simp at ht
  · cases ht; exact readKeeps_mask _ _ (fun _ => rfl) _

theorem readKeeps_busRead {a : Address} {s : State} {r : Byte × State} (h : busRead a s = .next r) : ReadKeeps s r.2 := by
  unfold busRead at h
  split at h
  · exact readKeeps_timerRead h
  · cases h; exact readKeeps_record _ s
  · cases h; exact readKeeps_record _ s

theorem ReadKeeps.trans {s t u : State} (h : ReadKeeps s t) (k : ReadKeeps t u) : ReadKeeps s u :=
  ⟨k.fault.trans h.fault, k.regs.trans h.regs, k.sched.trans h.sched, k.cd.trans h.cd, k.due.trans h.due,
    k.js.trans h.js, k.jc.trans h.jc, k.mem.trans h.mem, k.platform.trans h.platform, k.ier0.trans h.ier0,
    k.ier1.trans h.ier1, fun z => (k.clear0 (by rw [h.clear0 z]; exact z)).trans (h.clear0 z),
    fun z => (k.clear1 (by rw [h.clear1 z]; exact z)).trans (h.clear1 z), fun n hn => (k.high n hn).trans (h.high n hn), k.low ∘ h.low⟩

/-- R482: a poll of T2 leaves what T1 is about. -/
theorem t2Poll_t1 (i : TimerId) (s : State) :
    ((t2Poll i s).via i).t1c = (s.via i).t1c ∧
      ((t2Poll i s).via i).t1Fired = (s.via i).t1Fired ∧
      ((t2Poll i s).via i).ifr.getLsbD 6 = (s.via i).ifr.getLsbD 6 ∧ ((t2Poll i s).via i).acr = (s.via i).acr := by
  have h : ((t2Fire i s).via i).t1c = (s.via i).t1c ∧ ((t2Fire i s).via i).t1Fired = (s.via i).t1Fired ∧
      ((t2Fire i s).via i).ifr.getLsbD 6 = (s.via i).ifr.getLsbD 6 ∧ ((t2Fire i s).via i).acr = (s.via i).acr := by
    unfold t2Fire
    split
    · rw [(claim_same _ _ _).2.2.2.1, updateVia_via]
      refine ⟨rfl, rfl, ?_, rfl⟩
      simp [Via.t2Expire, t2Bit]
    · exact ⟨rfl, rfl, rfl, rfl⟩
  unfold t2Poll
  dsimp only
  split
  · rw [setVia_via]; exact h
  · exact h

end Sys2Proof.Machine
end

