-- ==== Sys2Proof/Laws/Countdown.lean ====
section
/-! SUPPORT. What moves the countdown (R52): a bus access without a wait leaves it, and while no timer has T1 or T2
enabled time leaves it `IDLE`. -/

namespace Sys2Proof.Machine

/-! ### Accesses that do not wait -/

theorem countdown_timerWrite {i : TimerId} {off : Nat} {v : Byte} {s t : State} (h : timerWrite i off v s = .next t) :
    t.irq.countdown = s.irq.countdown := by
  unfold timerWrite accessPortA accessPortB accessSR at h
  split at h <;> first
    | (split at h
       · simp at h
       · cases h; simp [updateVia])
    | (simp at h; done)
    | (cases h; simp [updateVia])

theorem countdown_busWrite {a : Address} {v : Byte} {s t : State} (h : busWrite a v s = .next t) :
    t.irq.countdown = s.irq.countdown := by
  unfold busWrite at h
  split at h
  · exact countdown_timerWrite h
  · cases h; rfl
  · cases h; rfl

/-- R86: on a platform without waits an access is the bus access alone. -/
theorem memRead_noWait {k : AccessKind} {a : Address} {s : State} {r : Byte × State} (hw : s.platform.ioWait = [])
    (h : memRead k a s = .next r) : busRead a s = .next r := by
  obtain ⟨q, hq, hk⟩ := andThen_eq_next.mp h
  cases hk
  have hp : q.2.platform.ioWait = [] := by rw [(quiet_busRead a s q hq).platform, hw]
  rw [hq, ioWait_none (by rw [hp]; rfl)]

theorem memWrite_noWait {a : Address} {v : Byte} {s t : State} (hw : s.platform.ioWait = [])
    (h : memWrite a v s = .next t) : busWrite a v s = .next t := by
  obtain ⟨q, hq, hk⟩ := andThen_eq_next.mp h
  cases hk
  have hp : q.platform.ioWait = [] := by rw [(steady_busWrite hq).1.platform, hw]
  rw [hq, ioWait_none (by rw [hp]; rfl)]

/-- What an access keeps on a platform without waits. -/
structure Unmoved (s t : State) : Prop where
  countdown : t.irq.countdown = s.irq.countdown
  due       : t.irq.due = s.irq.due
  platform  : t.platform = s.platform
  sched     : t.sched = s.sched

theorem Unmoved.trans {s t u : State} (h : Unmoved s t) (k : Unmoved t u) : Unmoved s u :=
  ⟨k.countdown.trans h.countdown, k.due.trans h.due, k.platform.trans h.platform, k.sched.trans h.sched⟩

theorem unmoved_memRead {k : AccessKind} {a : Address} {s : State} {r : Byte × State} (hw : s.platform.ioWait = [])
    (h : memRead k a s = .next r) : Unmoved s r.2 := by
  have e := readKeeps_busRead (memRead_noWait hw h)
  exact ⟨e.cd, e.due, e.platform, e.sched⟩

theorem unmoved_memRead16 {a b : Address} {s : State} {r : Address × State} (hw : s.platform.ioWait = [])
    (h : memRead16 a b s = .next r) : Unmoved s r.2 := by
  obtain ⟨l, hl, h2⟩ := andThen_eq_next.mp h
  obtain ⟨k, hk, h3⟩ := andThen_eq_next.mp h2
  cases h3
  have e := unmoved_memRead hw hl
  exact e.trans (unmoved_memRead (by rw [e.platform, hw]) hk)

theorem unmoved_push {v : Byte} {s t : State} (hw : s.platform.ioWait = []) (h : push v s = .next t) :
    Unmoved s t := by
  obtain ⟨u, hu, hk⟩ := andThen_eq_next.mp h
  cases hk
  have e := memWrite_noWait hw hu
  exact ⟨(countdown_busWrite e : u.irq.countdown = _), (steady_busWrite e).1.due, (steady_busWrite e).1.platform, (sched_busWrite e : u.sched = _)⟩

/-- R372, R415: on a platform without waits taking an exception leaves the countdown, the due flag and every cycle
counter. -/
theorem unmoved_takeException {ret : Address} {brk : Bool} {s t : State} (hw : s.platform.ioWait = [])
    (h : takeException ret brk s = .next t) : Unmoved s t := by
  obtain ⟨u, hu, h2⟩ := andThen_eq_next.mp h
  obtain ⟨x, hx, h3⟩ := andThen_eq_next.mp h2
  obtain ⟨r, hr, h4⟩ := andThen_eq_next.mp h3
  obtain ⟨y, hy, hz⟩ := andThen_eq_next.mp hu
  cases h4
  have e1 := unmoved_push hw hy
  have e2 := e1.trans (unmoved_push (by rw [e1.platform, hw]) hz)
  have e3 := e2.trans (unmoved_push (by rw [e2.platform, hw]) hx)
  have e4 := unmoved_memRead16 (s := x.setP { x.regs.p with i := true }) (by rw [setP_platform, e3.platform, hw]) hr
  exact ⟨e4.countdown.trans e3.countdown, e4.due.trans e3.due, e4.platform.trans e3.platform, e4.sched.trans e3.sched⟩

/-! ### Time, while no timer is enabled -/

/-- What keeps an `IDLE` countdown where neither timer has T1 or T2 enabled (R476, R482): nothing claims it. -/
structure Idles (s t : State) : Prop where
  ier0 : t.via0.ier = s.via0.ier
  ier1 : t.via1.ier = s.via1.ier
  idle : s.via0.ier &&& 0x60 = 0 → s.via1.ier &&& 0x60 = 0 → s.irq.countdown = none → t.irq.countdown = none

theorem Idles.refl (s : State) : Idles s s := ⟨rfl, rfl, fun _ _ => id⟩

theorem Idles.trans {s t u : State} (h : Idles s t) (k : Idles t u) : Idles s u :=
  ⟨k.ier0.trans h.ier0, k.ier1.trans h.ier1,
    fun a b c => k.idle (by rw [h.ier0]; exact a) (by rw [h.ier1]; exact b) (h.idle a b c)⟩

theorem Idles.of_same {s t : State} (h0 : t.via0.ier = s.via0.ier) (h1 : t.via1.ier = s.via1.ier)
    (hc : t.irq.countdown = s.irq.countdown) : Idles s t := ⟨h0, h1, fun _ _ c => hc.trans c⟩

/-- What is done to a state that differs from the first in nothing the countdown is about. -/
theorem Idles.of_start {s t u : State} (h : Idles t u) (h0 : t.via0.ier = s.via0.ier) (h1 : t.via1.ier = s.via1.ier)
    (hc : t.irq.countdown = s.irq.countdown) : Idles s u := (Idles.of_same h0 h1 hc).trans h

theorem idles_setVia {s : State} {i : TimerId} {v : Via} (h : v.ier = (s.via i).ier) : Idles s (s.setVia i v) := by
  cases i <;> exact Idles.of_same (by first | exact h | rfl) (by first | exact h | rfl) rfl

theorem idles_updateVia {s : State} {i : TimerId} {f : Via → Via} (h : (f (s.via i)).ier = (s.via i).ier) :
    Idles s (updateVia i f s) :=
  (idles_setVia h).trans (Idles.of_same rfl rfl rfl)

theorem disabled_bits : ∀ x : BitVec 7, x &&& 0x60 = 0 → x &&& t1Bit = 0 ∧ x &&& t2Bit = 0 := by decide +kernel

/-- A claim by a timer that has neither interrupt enabled. -/
theorem idles_claim {s : State} {i : TimerId} {bit : BitVec 7} {c : Int}
    (hb : ∀ x : BitVec 7, x &&& 0x60 = 0 → x &&& bit = 0) :
    Idles s (claim (decide ((s.via i).ier &&& bit ≠ 0)) c s) := by
  have e := claim_same (decide ((s.via i).ier &&& bit ≠ 0)) c s
  refine ⟨congrArg Via.ier (e.2.2.2.1 .t0), congrArg Via.ier (e.2.2.2.1 .t1), fun h0 h1 hc => ?_⟩
  have hi : (s.via i).ier &&& bit = 0 := by
    cases i
    · exact hb _ h0
    · exact hb _ h1
  rw [e.2.2.2.2.2.2, if_neg (by simp [hi]), hc]

theorem idles_t1Fire (i : TimerId) (s : State) : Idles s (t1Fire i s) := by
  unfold t1Fire
  split
  · have h : Idles s (updateVia i Via.t1Expire s) := idles_updateVia rfl
    have e : (s.via i).ier = ((updateVia i Via.t1Expire s).via i).ier := by rw [updateVia_via]; rfl
    rw [e]
    exact h.trans (idles_claim fun x hx => (disabled_bits x hx).1)
  · exact Idles.refl s

theorem idles_t2Fire (i : TimerId) (s : State) : Idles s (t2Fire i s) := by
  unfold t2Fire
  split
  · have h : Idles s (updateVia i Via.t2Expire s) := idles_updateVia rfl
    have e : (s.via i).ier = ((updateVia i Via.t2Expire s).via i).ier := by rw [updateVia_via]; rfl
    rw [e]
    exact h.trans (idles_claim fun x hx => (disabled_bits x hx).2)
  · exact Idles.refl s

theorem idles_timerAdvance (i : TimerId) (n : Nat) (s : State) : Idles s (timerAdvance i n s) := by
  have h1 (t : State) : Idles t (t1Poll i t) := by
    unfold t1Poll
    dsimp only
    split
    · exact (idles_t1Fire i t).trans (idles_setVia rfl)
    · exact idles_t1Fire i t
  have h2 (t : State) : Idles t (t2Poll i t) := by
    unfold t2Poll
    dsimp only
    split
    · exact (idles_t2Fire i t).trans (idles_setVia rfl)
    · exact idles_t2Fire i t
  have h0 : Idles s (s.setVia i ((s.via i).count n)) := idles_setVia rfl
  exact (h0.trans (h1 _)).trans (h2 _)

theorem idles_guarded {α : Type} {s : State} {c : Call α} (h : Idles s c.state) : Idles s (guarded s c).state := by
  unfold guarded
  split
  · exact Idles.refl s
  · exact h

theorem idles_portWrite (id : Nat) (on : Bool) (s : State) : Idles s (portWrite id on s).state := by
  refine idles_guarded ?_
  split <;> exact Idles.of_same rfl rfl rfl

theorem idles_keepTrigger {s : State} (k : Nat) {c : Call Trigger} (h : Idles s c.state) :
    Idles s (keepTrigger k c) := by
  unfold keepTrigger
  split
  · exact h.trans (Idles.of_same rfl rfl rfl)
  · exact h

theorem idles_extEvent (e : ExtEvent) (s : State) : Idles s (extEvent e s) := by
  cases e with
  | setSource id => exact idles_portWrite id true s
  | clearSource id => exact idles_portWrite id false s
  | signal i line =>
    simp only [extEvent, signalIfRunning]
    split
    · exact Idles.refl s
    · exact idles_updateVia rfl
  | setPins i port v => exact Idles.of_same rfl rfl rfl
  | schedule k d => exact idles_keepTrigger k (idles_guarded (Idles.refl s))
  | reschedule k d =>
    refine idles_keepTrigger k (idles_guarded ?_)
    cases s.ext.trigger k <;> exact Idles.of_same rfl rfl rfl
  | clear k => exact idles_keepTrigger k (idles_guarded (Idles.refl s))

theorem idles_extEvents (es : List ExtEvent) (s : State) : Idles s (extEvents es s) := by
  induction es generalizing s with
  | nil => exact Idles.refl s
  | cons e rest ih => exact (idles_extEvent e s).trans (ih _)

theorem idles_extAdvance (n : Nat) (s : State) : Idles s (extAdvance n s) := by
  have h (t : State) : Idles t (extRespond t) := by
    unfold extRespond
    split
    · exact Idles.refl t
    · exact (idles_extEvents _ _).of_start rfl rfl rfl
  exact (h _).of_start rfl rfl rfl

theorem idles_advance (n : Nat) (s : State) : Idles s (advance n s) := by
  unfold advance
  split
  · exact Idles.refl s
  · have h : Idles s (chargeTime n s) := ⟨rfl, rfl, fun _ _ c => by rw [chargeTime_irq]; simp [c, countDown]⟩
    exact ((h.trans (idles_timerAdvance _ n _)).trans (idles_timerAdvance _ n _)).trans (idles_extAdvance n _)

theorem idles_ioWait (k : AccessKind) (a : Address) (s : State) : Idles s (ioWait k a s) :=
  (idles_advance (waitIn a k s.platform.ioWait) s).trans (Idles.of_same rfl rfl rfl)

theorem idles_memRead {k : AccessKind} {a : Address} {s : State} {r : Byte × State} (h : memRead k a s = .next r) :
    Idles s r.2 := by
  obtain ⟨q, hq, hk⟩ := andThen_eq_next.mp h
  cases hk
  have e := readKeeps_busRead hq
  exact (Idles.of_same e.ier0 e.ier1 e.cd).trans (idles_ioWait _ _ _)

theorem idles_memRead16 {a b : Address} {s : State} {r : Address × State} (h : memRead16 a b s = .next r) :
    Idles s r.2 := by
  obtain ⟨l, hl, h2⟩ := andThen_eq_next.mp h
  obtain ⟨k, hk, h3⟩ := andThen_eq_next.mp h2
  cases h3
  exact (idles_memRead hl).trans (idles_memRead hk)

/-- A push to plain memory; one to a timer's window could enable a timer. -/
theorem idles_push {v : Byte} {s t : State} (hr : route s.platform (stackAddr s.regs.sp) = .memory)
    (h : push v s = .next t) : Idles s t := by
  rw [push, memWrite_memory v hr] at h
  cases h
  have h := (idles_ioWait .write (stackAddr s.regs.sp)
    { s.record (.write (stackAddr s.regs.sp) v) with mem := writeByte s.mem (stackAddr s.regs.sp).toNat v })
  have k : Idles s _ := h.of_start rfl rfl rfl
  exact ⟨k.ier0, k.ier1, k.idle⟩

/-- R415: an exception whose frame is plain memory leaves an `IDLE` countdown `IDLE` while no timer is enabled. -/
theorem idles_takeException {ret : Address} {brk : Bool} {s t : State} (hs : StackPlain 3 s)
    (h : takeException ret brk s = .next t) : Idles s t := by
  obtain ⟨u, hu, h2⟩ := andThen_eq_next.mp h
  obtain ⟨x, hx, h3⟩ := andThen_eq_next.mp h2
  obtain ⟨r, hr, h4⟩ := andThen_eq_next.mp h3
  obtain ⟨y, hy, hz⟩ := andThen_eq_next.mp hu
  cases h4
  obtain ⟨q1, _, p1, _⟩ := push_next hy
  obtain ⟨q2, _, p2, _⟩ := push_next hz
  have r2 : route y.platform (stackAddr y.regs.sp) = .memory := by rw [p1, q1]; exact hs.2.1
  have r3 : route u.platform (stackAddr u.regs.sp) = .memory := by rw [p2, p1, q2, q1]; exact hs.2.2.1
  have e := ((idles_push hs.1 hy).trans (idles_push r2 hz)).trans (idles_push r3 hx)
  have f : Idles x (x.setP { x.regs.p with i := true }) := Idles.of_same rfl rfl rfl
  exact ((e.trans f).trans (idles_memRead16 hr)).trans (Idles.of_same rfl rfl rfl)

end Sys2Proof.Machine
end

