-- ==== Sys2Proof/Laws/Decode.lean ====
section
/-! SUPPORT. The opcode table: a row that is found has the opcode looked for, every row's instruction encodes back to
its opcode, and every instruction's opcode finds its own row. -/

namespace Sys2Proof

open Sys2Proof.Machine

theorem findShape_mem {op : Byte} {sh : Shape} :
    {l : List OpRow} → findShape op l = some sh → ∃ r ∈ l, r.opcode = op ∧ r.shape = sh
  | [], h => by simp [findShape] at h
  | r :: rest, h => by
    simp only [findShape] at h
    split at h
    · next e => cases h; exact ⟨r, by simp, e, rfl⟩
    · obtain ⟨q, hq, hr⟩ := findShape_mem h
      exact ⟨q, by simp [hq], hr⟩

/-- The instruction of a row encodes to the row's opcode and its operand. -/
def Shape.encodesFrom (op : Byte) : Shape → Prop
  | .none i => encode i = [op]
  | .one k => ∀ b, encode (k b) = [op, b]
  | .two k => ∀ w, encode (k w) = op :: wordBytes w

/-- A list of rows each of which encodes back. -/
def RowsEncode (l : List OpRow) : Prop := ∀ r ∈ l, r.shape.encodesFrom r.opcode

theorem RowsEncode.nil : RowsEncode [] := by simp [RowsEncode]

theorem RowsEncode.cons {r : OpRow} {l : List OpRow} (h : r.shape.encodesFrom r.opcode) (hl : RowsEncode l) :
    RowsEncode (r :: l) := by
  intro q hq
  rcases List.mem_cons.mp hq with rfl | hq
  · exact h
  · exact hl q hq

theorem RowsEncode.append {l m : List OpRow} (hl : RowsEncode l) (hm : RowsEncode m) : RowsEncode (l ++ m) := by
  intro q hq
  rcases List.mem_append.mp hq with hq | hq
  · exact hl q hq
  · exact hm q hq

theorem opTable_encode : RowsEncode opTable := by
  unfold opTable
  repeat' apply RowsEncode.append
  all_goals
    repeat (first
      | exact RowsEncode.nil
      | refine RowsEncode.cons (by first | exact rfl | exact fun _ => rfl) ?_)

/-- An opcode that selects a shape is the opcode of the instructions of that shape. -/
theorem shapeOf_encodes {op : Byte} {sh : Shape} (h : shapeOf op = some sh) : sh.encodesFrom op := by
  obtain ⟨r, hr, ho, hs⟩ := findShape_mem h
  subst ho hs
  exact opTable_encode r hr

set_option maxRecDepth 20000 in
/-- The encoding of an instruction: its opcode, which selects its own shape, and its operand. -/
theorem encode_shape (i : Instr) :
    (∃ op, encode i = [op] ∧ shapeOf op = some (.none i)) ∨
    (∃ op b k, encode i = [op, b] ∧ shapeOf op = some (.one k) ∧ k b = i) ∨
    (∃ op w k, encode i = op :: wordBytes w ∧ shapeOf op = some (.two k) ∧ k w = i) := by
  cases i <;> first
    | exact .inl ⟨_, rfl, rfl⟩
    | exact .inr (.inl ⟨_, _, _, rfl, rfl, rfl⟩)
    | exact .inr (.inr ⟨_, _, _, rfl, rfl, rfl⟩)

end Sys2Proof
end

