-- ==== Sys2Proof/Laws/Exec.lean ====
section
/-! SUPPORT. The shape of every meaning: `exec` of an instruction is the shape of `meaningOf` run with the timing of
Table 41-1, so that a fact about all instructions is a fact about seven shapes and a table. -/

namespace Sys2Proof.Machine

/-- The shapes of the meanings. -/
inductive Meaning where
  | read (o : Operand) (f : Byte → Regs → Regs)
  | arith (o : Operand) (f : Byte → State → Result)
  | write (m : EaMode) (f : Regs → Byte)
  | modify (m : EaMode) (f : Byte → Flags → Byte × Flags)
  | regs (f : Regs → Regs)
  | branch (d : Byte) (cond : Flags → Bool)
  | plain (f : State → Result)

def Meaning.run (t : Timing) : Meaning → State → Result
  | .read o f, s => readRegOp t o f s
  | .arith o f, s => readOp t o f s
  | .write m f, s => writeOp t m f s
  | .modify m f, s => rmwOp t m f s
  | .regs f, s => regOp t f s
  | .branch d c, s => branchOp t (c s.regs.p) d s
  | .plain f, s => plainOp t f s

/-- The accumulator form of a read-modify-write instruction, on the registers. -/
def accumulator (f : Byte → Flags → Byte × Flags) (r : Regs) : Regs :=
  { r with a := (f r.a r.p).1, p := (f r.a r.p).2 }

/-- The shape of each instruction. -/
def meaningOf : Instr → Meaning
  | .brk => .plain softwareInterrupt
  | .oraIzx b => .read (.byte (.izx b)) oraA
  | .oraZp b => .read (.byte (.zp b)) oraA
  | .aslZp b => .modify (.zp b) aslResult
  | .php => .plain pushP
  | .oraImm b => .read (.imm b) oraA
  | .aslAcc => .regs (accumulator aslResult)
  | .oraAbs w => .read (.byte (.abs w)) oraA
  | .aslAbs w => .modify (.abs w) aslResult
  | .bpl d => .branch d (fun p => !p.n)
  | .oraIzy b => .read (.byte (.izy b)) oraA
  | .oraZpx b => .read (.byte (.zpx b)) oraA
  | .aslZpx b => .modify (.zpx b) aslResult
  | .clc => .regs clearC
  | .oraAby w => .read (.byte (.aby w)) oraA
  | .oraAbx w => .read (.byte (.abx w)) oraA
  | .aslAbx w => .modify (.abx w) aslResult
  | .jsr w => .plain (call w)
  | .andIzx b => .read (.byte (.izx b)) andA
  | .bitZp b => .read (.byte (.zp b)) bitTest
  | .andZp b => .read (.byte (.zp b)) andA
  | .rolZp b => .modify (.zp b) rolResult
  | .plp => .plain pullP
  | .andImm b => .read (.imm b) andA
  | .rolAcc => .regs (accumulator rolResult)
  | .bitAbs w => .read (.byte (.abs w)) bitTest
  | .andAbs w => .read (.byte (.abs w)) andA
  | .rolAbs w => .modify (.abs w) rolResult
  | .bmi d => .branch d (fun p => p.n)
  | .andIzy b => .read (.byte (.izy b)) andA
  | .andZpx b => .read (.byte (.zpx b)) andA
  | .rolZpx b => .modify (.zpx b) rolResult
  | .sec => .regs setC
  | .andAby w => .read (.byte (.aby w)) andA
  | .andAbx w => .read (.byte (.abx w)) andA
  | .rolAbx w => .modify (.abx w) rolResult
  | .rti => .plain returnFromException
  | .eorIzx b => .read (.byte (.izx b)) eorA
  | .eorZp b => .read (.byte (.zp b)) eorA
  | .lsrZp b => .modify (.zp b) lsrResult
  | .pha => .plain pushA
  | .eorImm b => .read (.imm b) eorA
  | .lsrAcc => .regs (accumulator lsrResult)
  | .jmpAbs w => .plain (jump w)
  | .eorAbs w => .read (.byte (.abs w)) eorA
  | .lsrAbs w => .modify (.abs w) lsrResult
  | .bvc d => .branch d (fun p => !p.v)
  | .eorIzy b => .read (.byte (.izy b)) eorA
  | .eorZpx b => .read (.byte (.zpx b)) eorA
  | .lsrZpx b => .modify (.zpx b) lsrResult
  | .cli => .plain (writeI false)
  | .eorAby w => .read (.byte (.aby w)) eorA
  | .eorAbx w => .read (.byte (.abx w)) eorA
  | .lsrAbx w => .modify (.abx w) lsrResult
  | .rts => .plain returnFromSubroutine
  | .adcIzx b => .arith (.byte (.izx b)) (adc 0x61)
  | .adcZp b => .arith (.byte (.zp b)) (adc 0x65)
  | .rorZp b => .modify (.zp b) rorResult
  | .pla => .plain pullA
  | .adcImm b => .arith (.imm b) (adc 0x69)
  | .rorAcc => .regs (accumulator rorResult)
  | .jmpInd w => .plain (jumpIndirect w)
  | .adcAbs w => .arith (.byte (.abs w)) (adc 0x6D)
  | .rorAbs w => .modify (.abs w) rorResult
  | .bvs d => .branch d (fun p => p.v)
  | .adcIzy b => .arith (.byte (.izy b)) (adc 0x71)
  | .adcZpx b => .arith (.byte (.zpx b)) (adc 0x75)
  | .rorZpx b => .modify (.zpx b) rorResult
  | .sei => .plain (writeI true)
  | .adcAby w => .arith (.byte (.aby w)) (adc 0x79)
  | .adcAbx w => .arith (.byte (.abx w)) (adc 0x7D)
  | .rorAbx w => .modify (.abx w) rorResult
  | .staIzx b => .write (.izx b) Regs.a
  | .styZp b => .write (.zp b) Regs.y
  | .staZp b => .write (.zp b) Regs.a
  | .stxZp b => .write (.zp b) Regs.x
  | .dey => .regs decrementY
  | .txa => .regs transferXA
  | .styAbs w => .write (.abs w) Regs.y
  | .staAbs w => .write (.abs w) Regs.a
  | .stxAbs w => .write (.abs w) Regs.x
  | .bcc d => .branch d (fun p => !p.c)
  | .staIzy b => .write (.izy b) Regs.a
  | .styZpx b => .write (.zpx b) Regs.y
  | .staZpx b => .write (.zpx b) Regs.a
  | .stxZpy b => .write (.zpy b) Regs.x
  | .tya => .regs transferYA
  | .staAby w => .write (.aby w) Regs.a
  | .txs => .regs transferXS
  | .staAbx w => .write (.abx w) Regs.a
  | .ldyImm b => .read (.imm b) loadY
  | .ldaIzx b => .read (.byte (.izx b)) loadA
  | .ldxImm b => .read (.imm b) loadX
  | .ldyZp b => .read (.byte (.zp b)) loadY
  | .ldaZp b => .read (.byte (.zp b)) loadA
  | .ldxZp b => .read (.byte (.zp b)) loadX
  | .tay => .regs transferAY
  | .ldaImm b => .read (.imm b) loadA
  | .tax => .regs transferAX
  | .ldyAbs w => .read (.byte (.abs w)) loadY
  | .ldaAbs w => .read (.byte (.abs w)) loadA
  | .ldxAbs w => .read (.byte (.abs w)) loadX
  | .bcs d => .branch d (fun p => p.c)
  | .ldaIzy b => .read (.byte (.izy b)) loadA
  | .ldyZpx b => .read (.byte (.zpx b)) loadY
  | .ldaZpx b => .read (.byte (.zpx b)) loadA
  | .ldxZpy b => .read (.byte (.zpy b)) loadX
  | .clv => .regs clearV
  | .ldaAby w => .read (.byte (.aby w)) loadA
  | .tsx => .regs transferSX
  | .ldyAbx w => .read (.byte (.abx w)) loadY
  | .ldaAbx w => .read (.byte (.abx w)) loadA
  | .ldxAby w => .read (.byte (.aby w)) loadX
  | .cpyImm b => .read (.imm b) compareY
  | .cmpIzx b => .read (.byte (.izx b)) compareA
  | .cpyZp b => .read (.byte (.zp b)) compareY
  | .cmpZp b => .read (.byte (.zp b)) compareA
  | .decZp b => .modify (.zp b) decResult
  | .iny => .regs incrementY
  | .cmpImm b => .read (.imm b) compareA
  | .dex => .regs decrementX
  | .cpyAbs w => .read (.byte (.abs w)) compareY
  | .cmpAbs w => .read (.byte (.abs w)) compareA
  | .decAbs w => .modify (.abs w) decResult
  | .bne d => .branch d (fun p => !p.z)
  | .cmpIzy b => .read (.byte (.izy b)) compareA
  | .cmpZpx b => .read (.byte (.zpx b)) compareA
  | .decZpx b => .modify (.zpx b) decResult
  | .cld => .regs clearD
  | .cmpAby w => .read (.byte (.aby w)) compareA
  | .cmpAbx w => .read (.byte (.abx w)) compareA
  | .decAbx w => .modify (.abx w) decResult
  | .cpxImm b => .read (.imm b) compareX
  | .sbcIzx b => .arith (.byte (.izx b)) (sbc 0xE1)
  | .cpxZp b => .read (.byte (.zp b)) compareX
  | .sbcZp b => .arith (.byte (.zp b)) (sbc 0xE5)
  | .incZp b => .modify (.zp b) incResult
  | .inx => .regs incrementX
  | .sbcImm b => .arith (.imm b) (sbc 0xE9)
  | .nop => .regs id
  | .cpxAbs w => .read (.byte (.abs w)) compareX
  | .sbcAbs w => .arith (.byte (.abs w)) (sbc 0xED)
  | .incAbs w => .modify (.abs w) incResult
  | .beq d => .branch d (fun p => p.z)
  | .sbcIzy b => .arith (.byte (.izy b)) (sbc 0xF1)
  | .sbcZpx b => .arith (.byte (.zpx b)) (sbc 0xF5)
  | .incZpx b => .modify (.zpx b) incResult
  | .sed => .regs setD
  | .sbcAby w => .arith (.byte (.aby w)) (sbc 0xF9)
  | .sbcAbx w => .arith (.byte (.abx w)) (sbc 0xFD)
  | .incAbx w => .modify (.abx w) incResult

theorem exec_eq (i : Instr) (s : State) : exec i s = (meaningOf i).run (timingOf i) s := by
  cases i <;> rfl

/-- The operand of the shape is that of the table, and an instruction has a sub-cost only where it makes that access. -/
def Meaning.agrees (t : Timing) (o : Option Operand) : Meaning → Prop
  | .read p _ => o = some p ∧ t.writeSub = 0
  | .arith p _ => o = some p ∧ t.writeSub = 0
  | .write m _ => o = some (.byte m) ∧ t.readSub = 0 ∧ t.penalty = false
  | .modify m _ => o = some (.byte m) ∧ t.penalty = false
  | .regs _ => o = none ∧ t.readSub = 0 ∧ t.writeSub = 0
  | .branch _ _ => o = none ∧ t.readSub = 0 ∧ t.writeSub = 0
  | .plain _ => o = none ∧ t.readSub = 0 ∧ t.writeSub = 0

theorem meaningOf_agrees (i : Instr) : (meaningOf i).agrees (timingOf i) (operandOf i) := by
  cases i <;> first | exact ⟨rfl, rfl⟩ | exact ⟨rfl, rfl, rfl⟩

/-- The shape of every instruction of a mnemonic. -/
def mnemonicShape (w : Meaning) : Mnemonic → Prop
  | .brk => w = .plain softwareInterrupt
  | .ora => ∃ o, w = .read o oraA
  | .asl => w = .regs (accumulator aslResult) ∨ ∃ m, w = .modify m aslResult
  | .php => w = .plain pushP
  | .bpl => ∃ d, w = .branch d (fun p => !p.n)
  | .clc => w = .regs clearC
  | .jsr => ∃ a, w = .plain (call a)
  | .and => ∃ o, w = .read o andA
  | .bit => ∃ o, w = .read o bitTest
  | .rol => w = .regs (accumulator rolResult) ∨ ∃ m, w = .modify m rolResult
  | .plp => w = .plain pullP
  | .bmi => ∃ d, w = .branch d (fun p => p.n)
  | .sec => w = .regs setC
  | .rti => w = .plain returnFromException
  | .eor => ∃ o, w = .read o eorA
  | .lsr => w = .regs (accumulator lsrResult) ∨ ∃ m, w = .modify m lsrResult
  | .pha => w = .plain pushA
  | .jmp => ∃ a, w = .plain (jump a) ∨ w = .plain (jumpIndirect a)
  | .bvc => ∃ d, w = .branch d (fun p => !p.v)
  | .cli => w = .plain (writeI false)
  | .rts => w = .plain returnFromSubroutine
  | .adc => ∃ o op, w = .arith o (adc op)
  | .ror => w = .regs (accumulator rorResult) ∨ ∃ m, w = .modify m rorResult
  | .pla => w = .plain pullA
  | .bvs => ∃ d, w = .branch d (fun p => p.v)
  | .sei => w = .plain (writeI true)
  | .sta => ∃ m, w = .write m Regs.a
  | .sty => ∃ m, w = .write m Regs.y
  | .stx => ∃ m, w = .write m Regs.x
  | .dey => w = .regs decrementY
  | .txa => w = .regs transferXA
  | .bcc => ∃ d, w = .branch d (fun p => !p.c)
  | .tya => w = .regs transferYA
  | .txs => w = .regs transferXS
  | .ldy => ∃ o, w = .read o loadY
  | .lda => ∃ o, w = .read o loadA
  | .ldx => ∃ o, w = .read o loadX
  | .tay => w = .regs transferAY
  | .tax => w = .regs transferAX
  | .bcs => ∃ d, w = .branch d (fun p => p.c)
  | .clv => w = .regs clearV
  | .tsx => w = .regs transferSX
  | .cpy => ∃ o, w = .read o compareY
  | .cmp => ∃ o, w = .read o compareA
  | .dec => ∃ m, w = .modify m decResult
  | .iny => w = .regs incrementY
  | .dex => w = .regs decrementX
  | .bne => ∃ d, w = .branch d (fun p => !p.z)
  | .cld => w = .regs clearD
  | .cpx => ∃ o, w = .read o compareX
  | .sbc => ∃ o op, w = .arith o (sbc op)
  | .inc => ∃ m, w = .modify m incResult
  | .inx => w = .regs incrementX
  | .nop => w = .regs id
  | .beq => ∃ d, w = .branch d (fun p => p.z)
  | .sed => w = .regs setD

theorem meaningOf_shape (i : Instr) : mnemonicShape (meaningOf i) i.mnemonic := by
  cases i <;> first
    | exact rfl | exact ⟨_, rfl⟩ | exact ⟨_, _, rfl⟩ | exact .inl rfl | exact .inr ⟨_, rfl⟩ | exact ⟨_, .inl rfl⟩
    | exact ⟨_, .inr rfl⟩

theorem timingOf_fits (i : Instr) : (timingOf i).readSub + (timingOf i).writeSub ≤ (timingOf i).base := by
  cases i <;> exact Nat.le_of_ble_eq_true rfl

/-- The instructions with effects of their own. -/
theorem plain_cases (i : Instr) : ∀ f, meaningOf i = .plain f →
    f = pushA ∨ f = pushP ∨ f = pullA ∨ f = pullP ∨ (∃ b, f = writeI b) ∨ f = returnFromSubroutine ∨
      f = softwareInterrupt ∨ f = returnFromException ∨ (∃ w, f = jump w) ∨ (∃ w, f = jumpIndirect w) ∨
      ∃ w, f = call w := by
  cases i <;> intro f h <;> first | (cases h; done) | (cases h; simp)

/-- ADC and SBC carry their own opcode into the decimal error. -/
theorem arith_opcode (i : Instr) : ∀ o f, meaningOf i = .arith o f →
    ∃ op, (encode i).head? = some op ∧ (f = adc op ∨ f = sbc op) := by
  cases i <;> intro o f h <;> cases h <;> first | exact ⟨_, rfl, .inl rfl⟩ | exact ⟨_, rfl, .inr rfl⟩

/-- A shift in a memory form is a modification. -/
theorem shift_memory (i : Instr) (hm : i.mnemonic ∈ [.asl, .lsr, .rol, .ror]) (hf : i.format ≠ .acc) :
    ∃ m f, meaningOf i = .modify m f := by
  cases i <;> first | exact ⟨_, _, rfl⟩ | exact absurd rfl hf | exact absurd (decide_eq_true hm) Bool.false_ne_true

end Sys2Proof.Machine
end

