-- ==== Sys2Proof/Laws/Effect.lean ====
section
/-! SUPPORT. The inversion of `exec`: what the next state of each shape of meaning is, up to the passing of time and
the side effects of reads, said once for all instructions. -/

namespace Sys2Proof.Machine

/-- The registers after ADC of an operand. -/
def addRegs (v : Byte) (r : Regs) : Regs := { r with a := adcResult r.a v r.p.c, p := adcFlags r.a v r.p }

/-- The registers after SBC of an operand. -/
def subRegs (v : Byte) (r : Regs) : Regs := { r with a := sbcResult r.a v r.p.c, p := sbcFlags r.a v r.p }

/-- What an instruction of a shape can do when it answers a next state. -/
def Meaning.effect (s u : State) : Meaning → Prop
  | .read _ f => ∃ v, Quiet { s with regs := f v s.regs } u
  | .arith _ _ => ∃ v, Quiet { s with regs := addRegs v s.regs } u ∨ Quiet { s with regs := subRegs v s.regs } u
  | .write _ f => ∃ a, Steady s u ∧ u.mem = storedMem s a (f s.regs)
  | .modify _ f => ∃ a v, Steady (s.setP (f v s.regs.p).2) u ∧ u.mem = storedMem s a (f v s.regs.p).1
  | .regs f => Quiet { s with regs := f s.regs } u
  | .branch d c => Quiet (Machine.branch (c s.regs.p) d s) u
  | .plain f => ∃ t, f s = .next t ∧ Quiet t u

theorem quiet_regs {s t : State} (q : Quiet s t) (r : Regs) : Quiet { s with regs := r } { t with regs := r } :=
  ⟨⟨rfl, q.platform, q.total, q.branch, q.inEntry, q.due, q.justSet, q.justCleared⟩, q.mem, q.acr0, q.pcr0, q.acr1,
    q.pcr1⟩

theorem quiet_finish {t : Timing} {s u : State} (h : finish t s = .next u) : Quiet s u := by
  cases h
  exact quiet_advance _ s

theorem adc_next {op v : Byte} {s t : State} (h : adc op v s = .next t) : t = { s with regs := addRegs v s.regs } := by
  unfold adc at h
  split at h
  · simp at h
  · cases h; rfl

theorem sbc_next {op v : Byte} {s t : State} (h : sbc op v s = .next t) : t = { s with regs := subRegs v s.regs } := by
  unfold sbc at h
  split at h
  · simp at h
  · cases h; rfl

theorem exec_effect (i : Instr) {s u : State} (h : exec i s = .next u) : (meaningOf i).effect s u := by
  rw [exec_eq] at h
  have hop := arith_opcode i
  generalize meaningOf i = w at h hop
  cases w with
  | read o f =>
    obtain ⟨r, hr, h2⟩ := andThen_eq_next.mp h
    have q := quiet_load _ _ _ r hr
    refine ⟨r.1, (quiet_regs q _).trans ?_⟩
    have h3 := quiet_finish h2
    rwa [q.regs] at h3
  | arith o f =>
    obtain ⟨r, hr, h2⟩ := andThen_eq_next.mp h
    obtain ⟨x, hx, h3⟩ := andThen_eq_next.mp h2
    have q := quiet_load _ _ _ r hr
    obtain ⟨op, _, e | e⟩ := hop o f rfl <;> subst e
    · cases adc_next hx
      refine ⟨r.1, .inl ?_⟩
      rw [← q.regs]
      exact (quiet_regs q _).trans (quiet_finish h3)
    · cases sbc_next hx
      refine ⟨r.1, .inr ?_⟩
      rw [← q.regs]
      exact (quiet_regs q _).trans (quiet_finish h3)
  | write m f =>
    obtain ⟨r, hr, h2⟩ := andThen_eq_next.mp h
    obtain ⟨x, hx, h3⟩ := andThen_eq_next.mp h2
    have q := quiet_resolve _ _ r hr
    have w := steady_gatedWrite hx
    have z := quiet_finish h3
    refine ⟨r.1.ea, (q.toSteady.trans w.1).trans z.toSteady, z.mem.trans (w.2.trans ?_)⟩
    rw [storedMem_quiet q, q.regs]
  | modify m f =>
    obtain ⟨r, hr, h2⟩ := andThen_eq_next.mp h
    obtain ⟨x, hx, h3⟩ := andThen_eq_next.mp h2
    obtain ⟨y, hy, h4⟩ := andThen_eq_next.mp h3
    have q := (quiet_resolve _ _ r hr).trans (quiet_gatedRead _ _ _ x hx)
    have w := steady_gatedWrite hy
    have z := quiet_finish h4
    have st := q.toSteady.trans w.1
    refine ⟨r.1.ea, x.1, Steady.trans ?_ z.toSteady, z.mem.trans (w.2.trans ?_)⟩
    · refine ⟨?_, st.platform, st.total, st.branch, st.inEntry, st.due, st.justSet, st.justCleared⟩
      rw [setP_regs, setP_regs, st.regs, q.regs]
    · rw [storedMem_quiet q, q.regs]
  | regs f => exact quiet_finish h
  | branch d c => exact quiet_finish h
  | plain f =>
    obtain ⟨x, hx, h3⟩ := andThen_eq_next.mp h
    exact ⟨x, hx, quiet_finish h3⟩

/-! ### The instructions with effects of their own -/

/-- What stays when only registers, memory, the timers and time change. -/
structure Aside (s t : State) : Prop where
  platform    : t.platform = s.platform
  total       : t.sched.total = s.sched.total
  branch      : t.sched.branch = s.sched.branch
  inEntry     : t.sched.inEntry = s.sched.inEntry
  due         : t.irq.due = s.irq.due
  justSet     : t.irq.justSet = s.irq.justSet
  justCleared : t.irq.justCleared = s.irq.justCleared

theorem Aside.refl (s : State) : Aside s s := ⟨rfl, rfl, rfl, rfl, rfl, rfl, rfl⟩

theorem Aside.trans {s t u : State} (h : Aside s t) (k : Aside t u) : Aside s u :=
  ⟨k.platform.trans h.platform, k.total.trans h.total, k.branch.trans h.branch, k.inEntry.trans h.inEntry,
    k.due.trans h.due, k.justSet.trans h.justSet, k.justCleared.trans h.justCleared⟩

theorem Steady.aside {s t : State} (h : Steady s t) : Aside s t :=
  ⟨h.platform, h.total, h.branch, h.inEntry, h.due, h.justSet, h.justCleared⟩

/-- A change of registers and of memory, with everything else that is not time or a timer as before. -/
structure Moves (s t : State) (r : Regs) (m : List Host.Cell) : Prop where
  regs  : t.regs = r
  mem   : t.mem = m
  aside : Aside s t

theorem push_moves {v : Byte} {s t : State} (h : push v s = .next t) :
    Moves s t { s.regs with sp := s.regs.sp - 1 } (storedMem s (stackAddr s.regs.sp) v) := by
  obtain ⟨h1, h2, _, h4⟩ := push_next h
  exact ⟨h1, h2, ⟨h4.platform, h4.total, h4.branch, h4.inEntry, h4.due, h4.justSet, h4.justCleared⟩⟩

theorem pullA_moves {s t : State} (h : pullA s = .next t) :
    ∃ v, Moves s t { s.regs with a := v, sp := s.regs.sp + 1, p := setZN v s.regs.p } s.mem := by
  obtain ⟨r, hr, hk⟩ := andThen_eq_next.mp h
  cases hk
  have q := quiet_pop r hr
  exact ⟨r.1, by simp [q.regs], q.mem,
    ⟨q.platform, q.total, q.branch, q.inEntry, q.due, q.justSet, q.justCleared⟩⟩

theorem pullP_moves {s t : State} (h : pullP s = .next t) :
    ∃ v, t.regs = { s.regs with sp := s.regs.sp + 1, p := unpackP v } ∧ t.mem = s.mem ∧
      t.irq.justSet = (!s.regs.p.i && (unpackP v).i) ∧ t.irq.justCleared = (s.regs.p.i && !(unpackP v).i) := by
  obtain ⟨r, hr, hk⟩ := andThen_eq_next.mp h
  cases hk
  have q := quiet_pop r hr
  exact ⟨r.1, by simp [q.regs], q.mem, rfl, rfl⟩

theorem returnFromSubroutine_moves {s t : State} (h : returnFromSubroutine s = .next t) :
    ∃ w, Moves s t { s.regs with sp := s.regs.sp + 2, pc := w } s.mem := by
  obtain ⟨r, hr, hk⟩ := andThen_eq_next.mp h
  cases hk
  have q := pop16_quiet hr
  exact ⟨r.1 + 1, by simp [q.regs], q.mem,
    ⟨q.platform, q.total, q.branch, q.inEntry, q.due, q.justSet, q.justCleared⟩⟩

theorem returnFromException_moves {s t : State} (h : returnFromException s = .next t) :
    ∃ v w, Moves s t { s.regs with sp := s.regs.sp + 1 + 2, pc := w, p := unpackP v } s.mem := by
  obtain ⟨r, hr, h2⟩ := andThen_eq_next.mp h
  obtain ⟨x, hx, hk⟩ := andThen_eq_next.mp h2
  cases hk
  have q := quiet_pop r hr
  have q2 := pop16_quiet hx
  exact ⟨r.1, x.1, by simp [q2.regs, q.regs], q2.mem.trans q.mem,
    Aside.trans (t := r.2) ⟨q.platform, q.total, q.branch, q.inEntry, q.due, q.justSet, q.justCleared⟩
      ⟨q2.platform, q2.total, q2.branch, q2.inEntry, q2.due, q2.justSet, q2.justCleared⟩⟩

theorem takeException_moves {ret : Address} {brk : Bool} {s t : State} (h : takeException ret brk s = .next t) :
    ∃ w m, Moves s t { s.regs with sp := s.regs.sp - 1 - 1 - 1, pc := w, p := { s.regs.p with i := true } } m := by
  obtain ⟨u, hu, h2⟩ := andThen_eq_next.mp h
  obtain ⟨x, hx, h3⟩ := andThen_eq_next.mp h2
  obtain ⟨r, hr, h4⟩ := andThen_eq_next.mp h3
  obtain ⟨y, hy, h5⟩ := andThen_eq_next.mp hu
  cases h4
  have m1 := push_moves hy
  have m2 := push_moves h5
  have m3 := push_moves hx
  have q := quiet_memRead16 _ _ _ r hr
  refine ⟨r.1, r.2.mem, ?_, rfl, ((m1.aside.trans m2.aside).trans m3.aside).trans
    ⟨q.platform, q.total, q.branch, q.inEntry, q.due, q.justSet, q.justCleared⟩⟩
  rw [setPc_regs, q.regs, setP_regs, m3.regs, m2.regs, m1.regs]

theorem jumpIndirect_moves {w : Address} {s t : State} (h : jumpIndirect w s = .next t) :
    ∃ a, Moves s t { s.regs with pc := a } s.mem := by
  obtain ⟨r, hr, hk⟩ := andThen_eq_next.mp h
  cases hk
  have q := quiet_memRead16 _ _ _ r hr
  exact ⟨r.1, by simp [q.regs], q.mem,
    ⟨q.platform, q.total, q.branch, q.inEntry, q.due, q.justSet, q.justCleared⟩⟩

theorem call_moves {w : Address} {s t : State} (h : call w s = .next t) :
    ∃ m, Moves s t { s.regs with sp := s.regs.sp - 1 - 1, pc := w } m := by
  obtain ⟨r, hr, hk⟩ := andThen_eq_next.mp h
  cases hk
  obtain ⟨y, hy, h5⟩ := andThen_eq_next.mp hr
  have m1 := push_moves hy
  have m2 := push_moves h5
  exact ⟨r.mem, by simp [m2.regs, m1.regs], rfl,
    Aside.trans m1.aside ⟨m2.aside.platform, m2.aside.total, m2.aside.branch, m2.aside.inEntry, m2.aside.due, m2.aside.justSet, m2.aside.justCleared⟩⟩

end Sys2Proof.Machine
end

