-- ==== Sys2Proof/Laws/Invariant.lean ====
section
/-! SUPPORT. What an instruction, a fetch and the completion of an instruction keep. -/

namespace Sys2Proof.Machine

/-- R196, R197: no instruction touches the request, the total or an entry's marker; only tracked instructions set the I
markers, and only a branch sets `BranchExtra`. -/
structure Beside (s t : State) : Prop where
  platform : t.platform = s.platform
  total    : t.sched.total = s.sched.total
  inEntry  : t.sched.inEntry = s.sched.inEntry
  due      : t.irq.due = s.irq.due

theorem Beside.refl (s : State) : Beside s s := ⟨rfl, rfl, rfl, rfl⟩

theorem Beside.trans {s t u : State} (h : Beside s t) (k : Beside t u) : Beside s u :=
  ⟨k.platform.trans h.platform, k.total.trans h.total, k.inEntry.trans h.inEntry, k.due.trans h.due⟩

theorem Steady.beside {s t : State} (h : Steady s t) : Beside s t := ⟨h.platform, h.total, h.inEntry, h.due⟩

theorem Aside.beside {s t : State} (h : Aside s t) : Beside s t := ⟨h.platform, h.total, h.inEntry, h.due⟩

theorem beside_exec {i : Instr} {s u : State} (h : exec i s = .next u) : Beside s u := by
  have he := exec_effect i h
  have hp := plain_cases i
  generalize meaningOf i = w at *
  cases w with
  | read o f => obtain ⟨v, q⟩ := he; exact ⟨q.platform, q.total, q.inEntry, q.due⟩
  | arith o f => obtain ⟨v, q | q⟩ := he <;> exact ⟨q.platform, q.total, q.inEntry, q.due⟩
  | write m f => obtain ⟨a, q, _⟩ := he; exact q.beside
  | modify m f => obtain ⟨a, v, q, _⟩ := he; exact ⟨q.platform, q.total, q.inEntry, q.due⟩
  | regs f => exact ⟨he.platform, he.total, he.inEntry, he.due⟩
  | branch d c =>
    have hb : Beside s (branch (c s.regs.p) d s) := by
      unfold branch
      split
      · exact ⟨rfl, rfl, rfl, rfl⟩
      · exact Beside.refl s
    exact hb.trans (Quiet.toSteady he).beside
  | plain f =>
    obtain ⟨t, ht, q⟩ := he
    refine Beside.trans ?_ q.toSteady.beside
    rcases hp f rfl with rfl | rfl | rfl | rfl | ⟨b, rfl⟩ | rfl | rfl | rfl | ⟨w, rfl⟩ | ⟨w, rfl⟩ | ⟨w, rfl⟩
    · exact (push_moves ht).aside.beside
    · exact (push_moves ht).aside.beside
    · obtain ⟨v, m⟩ := pullA_moves ht; exact m.aside.beside
    · obtain ⟨r, hr, hk⟩ := andThen_eq_next.mp ht
      cases hk
      have q := quiet_pop r hr
      exact ⟨q.platform, q.total, q.inEntry, q.due⟩
    · cases ht; exact ⟨rfl, rfl, rfl, rfl⟩
    · obtain ⟨v, m⟩ := returnFromSubroutine_moves ht; exact m.aside.beside
    · obtain ⟨v, m, k⟩ := takeException_moves ht; exact k.aside.beside
    · obtain ⟨v, m, k⟩ := returnFromException_moves ht; exact k.aside.beside
    · cases ht; exact ⟨rfl, rfl, rfl, rfl⟩
    · obtain ⟨v, m⟩ := jumpIndirect_moves ht; exact m.aside.beside
    · obtain ⟨v, m⟩ := call_moves ht; exact m.aside.beside

theorem keeps_exec {i : Instr} {s u : State} (h : exec i s = .next u) : Keeps s u := by
  rw [exec_eq] at h
  have hop := arith_opcode i
  have hp := plain_cases i
  generalize meaningOf i = w at *
  cases w with
  | read o f =>
    obtain ⟨r, hr, h2⟩ := andThen_eq_next.mp h
    exact ((keeps_load hr).trans (keeps_regs r.2 _)).trans (keeps_finish h2)
  | arith o f =>
    obtain ⟨r, hr, h2⟩ := andThen_eq_next.mp h
    obtain ⟨x, hx, h3⟩ := andThen_eq_next.mp h2
    obtain ⟨op, _, e | e⟩ := hop o f rfl <;> subst e
    · cases adc_next hx
      exact ((keeps_load hr).trans (keeps_regs r.2 _)).trans (keeps_finish h3)
    · cases sbc_next hx
      exact ((keeps_load hr).trans (keeps_regs r.2 _)).trans (keeps_finish h3)
  | write m f =>
    obtain ⟨r, hr, h2⟩ := andThen_eq_next.mp h
    obtain ⟨x, hx, h3⟩ := andThen_eq_next.mp h2
    exact ((keeps_resolve hr).trans (keeps_gatedWrite hx)).trans (keeps_finish h3)
  | modify m f =>
    obtain ⟨r, hr, h2⟩ := andThen_eq_next.mp h
    obtain ⟨x, hx, h3⟩ := andThen_eq_next.mp h2
    obtain ⟨y, hy, h4⟩ := andThen_eq_next.mp h3
    exact ((((keeps_resolve hr).trans (keeps_gatedRead hx)).trans (keeps_gatedWrite hy)).trans
      (keeps_regs y _)).trans (keeps_finish h4)
  | regs f => exact (keeps_regs s _).trans (keeps_finish h)
  | branch d c =>
    refine Keeps.trans ?_ (keeps_finish h)
    unfold branch
    split
    · exact Keeps.of_same rfl rfl rfl rfl rfl
    · exact Keeps.refl s
  | plain f =>
    obtain ⟨t, ht, h2⟩ := andThen_eq_next.mp h
    refine Keeps.trans ?_ (keeps_finish h2)
    rcases hp f rfl with rfl | rfl | rfl | rfl | ⟨b, rfl⟩ | rfl | rfl | rfl | ⟨w, rfl⟩ | ⟨w, rfl⟩ | ⟨w, rfl⟩
    · exact keeps_push ht
    · exact keeps_push ht
    · obtain ⟨r, hr, hk⟩ := andThen_eq_next.mp ht
      cases hk
      exact (keeps_pop hr).trans (keeps_regs _ _)
    · obtain ⟨r, hr, hk⟩ := andThen_eq_next.mp ht
      cases hk
      exact (keeps_pop hr).trans (Keeps.of_same rfl rfl rfl rfl rfl)
    · cases ht; exact Keeps.of_same rfl rfl rfl rfl rfl
    · obtain ⟨r, hr, hk⟩ := andThen_eq_next.mp ht
      cases hk
      exact (keeps_pop16 hr).trans (keeps_regs _ _)
    · exact keeps_takeException ht
    · exact keeps_returnFromException ht
    · cases ht; exact keeps_regs _ _
    · obtain ⟨r, hr, hk⟩ := andThen_eq_next.mp ht
      cases hk
      exact (keeps_memRead16 hr).trans (keeps_regs _ _)
    · obtain ⟨r, hr, hk⟩ := andThen_eq_next.mp ht
      cases hk
      exact (keeps_push16 hr).trans (keeps_regs _ _)

theorem costs_plain {i : Instr} {f : State → Result} (h : meaningOf i = .plain f) {s : State} (t : State)
    (ht : f s = .next t) : Costs 0 s t := by
  rcases plain_cases i f h with rfl | rfl | rfl | rfl | ⟨b, rfl⟩ | rfl | rfl | rfl | ⟨w, rfl⟩ | ⟨w, rfl⟩ | ⟨w, rfl⟩
  · exact costs_push ht
  · exact costs_push ht
  · obtain ⟨x, hx, hk⟩ := andThen_eq_next.mp ht; cases hk; exact (costs_pop hx).then_sched rfl
  · obtain ⟨x, hx, hk⟩ := andThen_eq_next.mp ht; cases hk; exact (costs_pop hx).then_sched rfl
  · cases ht; exact Costs.of_sched rfl
  · obtain ⟨x, hx, hk⟩ := andThen_eq_next.mp ht; cases hk; exact (costs_pop16 hx).then_sched rfl
  · exact costs_takeException ht
  · exact costs_returnFromException ht
  · cases ht; exact Costs.of_sched rfl
  · obtain ⟨x, hx, hk⟩ := andThen_eq_next.mp ht; cases hk; exact (costs_memRead16 hx).then_sched rfl
  · obtain ⟨x, hx, hk⟩ := andThen_eq_next.mp ht; cases hk; exact (costs_push16 hx).then_sched rfl

/-- R196: what an instruction charges it charges as `Costs` says. -/
theorem costs_exec {i : Instr} {s u : State} (h : exec i s = .next u) : ∃ n, Costs n s u := by
  rw [exec_eq] at h
  have hop := arith_opcode i
  have hp := fun f hf => @costs_plain i f hf s
  generalize meaningOf i = w at *
  have fin {x : State} {n : Nat} (c : Costs n s x) (hf : finish (timingOf i) x = .next u) : ∃ n, Costs n s u :=
    ⟨_, c.trans (costs_finish hf).1⟩
  have load_costs {o : Operand} {r : Byte × State} (hr : load (timingOf i) o s = .next r) : ∃ n, Costs n s r.2 := by
    cases o
    · cases hr; exact ⟨_, Costs.refl s⟩
    · obtain ⟨q, hq, hk⟩ := andThen_eq_next.mp hr
      exact ⟨_, (costs_resolve hq).trans (costs_gatedRead hk)⟩
  cases w with
  | read o f =>
    obtain ⟨r, hr, h2⟩ := andThen_eq_next.mp h
    obtain ⟨n, c⟩ := load_costs hr
    exact fin (c.then_sched (u := { r.2 with regs := f r.1 r.2.regs }) rfl) h2
  | arith o f =>
    obtain ⟨r, hr, h2⟩ := andThen_eq_next.mp h
    obtain ⟨x, hx, h3⟩ := andThen_eq_next.mp h2
    obtain ⟨n, c⟩ := load_costs hr
    obtain ⟨op, _, e | e⟩ := hop o f rfl <;> subst e
    · exact fin (c.then_sched (u := x) (by rw [adc_next hx])) h3
    · exact fin (c.then_sched (u := x) (by rw [sbc_next hx])) h3
  | write m f =>
    obtain ⟨r, hr, h2⟩ := andThen_eq_next.mp h
    obtain ⟨x, hx, h3⟩ := andThen_eq_next.mp h2
    exact fin ((costs_resolve hr).trans (costs_gatedWrite hx)) h3
  | modify m f =>
    obtain ⟨r, hr, h2⟩ := andThen_eq_next.mp h
    obtain ⟨x, hx, h3⟩ := andThen_eq_next.mp h2
    obtain ⟨y, hy, h4⟩ := andThen_eq_next.mp h3
    have c := ((costs_resolve hr).trans (costs_gatedRead hx)).trans (costs_gatedWrite hy)
    exact fin (c.then_sched (u := y.setP (f x.1 x.2.regs.p).2) rfl) h4
  | regs f => exact fin ((Costs.refl s).then_sched (u := { s with regs := f s.regs }) rfl) h
  | branch d c =>
    refine fin (n := 0) ?_ h
    unfold branch
    split
    · exact ⟨rfl, fun _ => ⟨rfl, rfl⟩, fun _ => ⟨rfl, rfl⟩⟩
    · exact Costs.refl s
  | plain f =>
    obtain ⟨t, ht, h2⟩ := andThen_eq_next.mp h
    exact fin (hp f rfl t ht) h2

/-! ### The fetch -/

theorem beside_fetch {s : State} {r : Byte × State} (h : fetch s = .next r) : Beside s r.2 := by
  obtain ⟨q, hq, hk⟩ := andThen_eq_next.mp h
  cases hk
  have z := quiet_memRead _ _ _ q hq
  exact ⟨z.platform, z.total, z.inEntry, z.due⟩

theorem fetchInstr_keeps {s : State} {r : Instr × State} (h : fetchInstr s = .next r) :
    Keeps s r.2 ∧ Beside s r.2 := by
  obtain ⟨q, hq, hk⟩ := andThen_eq_next.mp h
  have k0 := keeps_fetch hq
  have b0 := beside_fetch hq
  unfold decodeFetched at hk
  split at hk
  · simp at hk
  · unfold fetchOperands at hk
    split at hk
    · cases hk; exact ⟨k0, b0⟩
    · obtain ⟨x, hx, hk⟩ := andThen_eq_next.mp hk
      cases hk
      exact ⟨k0.trans (keeps_fetch hx), b0.trans (beside_fetch hx)⟩
    · obtain ⟨x, hx, hk⟩ := andThen_eq_next.mp hk
      obtain ⟨y, hy, hk⟩ := andThen_eq_next.mp hk
      cases hk
      exact ⟨(k0.trans (keeps_fetch hx)).trans (keeps_fetch hy),
        (b0.trans (beside_fetch hx)).trans (beside_fetch hy)⟩

/-- R182: the fetch charges nothing but its I/O waits, and sets no I marker. -/
theorem fetchInstr_costs {s : State} {r : Instr × State} (h : fetchInstr s = .next r) :
    Costs 0 s r.2 ∧ r.2.irq.justSet = s.irq.justSet ∧ r.2.irq.justCleared = s.irq.justCleared := by
  have one {s : State} {q : Byte × State} (h : fetch s = .next q) :
      Costs 0 s q.2 ∧ q.2.irq.justSet = s.irq.justSet ∧ q.2.irq.justCleared = s.irq.justCleared := by
    refine ⟨costs_fetch h, ?_⟩
    obtain ⟨x, hx, hk⟩ := andThen_eq_next.mp h
    cases hk
    exact ⟨(quiet_memRead _ _ _ x hx).justSet, (quiet_memRead _ _ _ x hx).justCleared⟩
  obtain ⟨q, hq, hk⟩ := andThen_eq_next.mp h
  obtain ⟨c0, j0, k0⟩ := one hq
  unfold decodeFetched at hk
  split at hk
  · simp at hk
  · unfold fetchOperands at hk
    split at hk
    · cases hk; exact ⟨c0, j0, k0⟩
    · obtain ⟨x, hx, hk⟩ := andThen_eq_next.mp hk
      cases hk
      obtain ⟨c1, j1, k1⟩ := one hx
      exact ⟨c0.trans c1, j1.trans j0, k1.trans k0⟩
    · obtain ⟨x, hx, hk⟩ := andThen_eq_next.mp hk
      obtain ⟨y, hy, hk⟩ := andThen_eq_next.mp hk
      cases hk
      obtain ⟨c1, j1, k1⟩ := one hx
      obtain ⟨c2, j2, k2⟩ := one hy
      exact ⟨(c0.trans c1).trans c2, j2.trans (j1.trans j0), k2.trans (k1.trans k0)⟩

/-! ### The completion -/

/-- The three ends of an instruction (R412): the request is dropped, it stays due, or interrupt entry is taken. -/
theorem complete_cases {s t : State} (h : complete s = .next t) :
    t.fault = none ∧
    ((t = dropRequest (addTotal s.sched.instr s)) ∨
      ((addTotal s.sched.instr s).irq.status ≠ 0 ∧
        ((t = markDue (addTotal s.sched.instr s)) ∨
          (serviceCondition (markDue (addTotal s.sched.instr s)) = true ∧
            irqEntry (markDue (addTotal s.sched.instr s)) = .next t)))) := by
  obtain ⟨x, hx, hk⟩ := andThen_eq_next.mp h
  unfold settle at hk
  split at hk
  · cases hk
  · next hf =>
    cases hk
    refine ⟨hf, ?_⟩
    unfold interruptBoundary at hx
    split at hx
    · cases hx; exact .inl rfl
    · next hs =>
      split at hx
      · next hc => exact .inr ⟨hs, .inr ⟨hc, hx⟩⟩
      · cases hx; exact .inr ⟨hs, .inl rfl⟩

/-- R415: an entry, taken apart: what it starts from, the exception, and its end. -/
theorem irqEntry_cases {s t : State} (h : irqEntry s = .next t) :
    ∃ u, takeException s.regs.pc false (beginEntry s) = .next u ∧ t = endEntry (advance irqEntryCycles u) := by
  obtain ⟨u, hu, hk⟩ := andThen_eq_next.mp h
  cases hk
  exact ⟨u, hu, rfl⟩

theorem endEntry_same (s : State) :
    (endEntry s).regs = s.regs ∧ (endEntry s).irq = s.irq ∧ (endEntry s).mem = s.mem ∧ (endEntry s).via0 = s.via0 ∧
      (endEntry s).via1 = s.via1 ∧ (endEntry s).platform = s.platform ∧ (endEntry s).sched.inEntry = false := by
  unfold endEntry addTotal wrapCheck
  dsimp only
  split <;> exact ⟨rfl, rfl, rfl, rfl, rfl, rfl, rfl⟩

theorem addTotal_same (n : Nat) (s : State) :
    (addTotal n s).regs = s.regs ∧ (addTotal n s).irq = s.irq ∧ (addTotal n s).mem = s.mem ∧
      (addTotal n s).via0 = s.via0 ∧ (addTotal n s).via1 = s.via1 ∧ (addTotal n s).platform = s.platform ∧
      (addTotal n s).sched.inEntry = s.sched.inEntry ∧ (addTotal n s).sched.instr = s.sched.instr ∧
      (addTotal n s).sched.io = s.sched.io ∧ (addTotal n s).sched.entry = s.sched.entry := by
  unfold addTotal wrapCheck
  split <;> exact ⟨rfl, rfl, rfl, rfl, rfl, rfl, rfl, rfl, rfl, rfl⟩

/-- R412: a request that is marked due has a countdown, and nothing else is changed. -/
theorem markDue_same (s : State) (h : s.irq.due = true → s.irq.countdown ≠ none) :
    (markDue s).regs = s.regs ∧ (markDue s).sched = s.sched ∧ (markDue s).irq.status = s.irq.status ∧
      (markDue s).mem = s.mem ∧ (markDue s).via0 = s.via0 ∧ (markDue s).via1 = s.via1 ∧
      (markDue s).platform = s.platform ∧ (markDue s).irq.due = true ∧ (markDue s).irq.countdown ≠ none ∧
      (markDue s).irq.justSet = s.irq.justSet ∧ (markDue s).irq.justCleared = s.irq.justCleared := by
  unfold markDue
  split
  · next hd => exact ⟨rfl, rfl, rfl, rfl, rfl, rfl, rfl, hd, h hd, rfl, rfl⟩
  · exact ⟨rfl, rfl, rfl, rfl, rfl, rfl, rfl, rfl, by simp, rfl, rfl⟩

theorem step_next {s t : State} (h : step s = .next t) :
    s.fault = none ∧ ∃ i x u, fetchInstr (beginInstr s) = .next (i, x) ∧ exec i x = .next u ∧ complete u = .next t := by
  unfold step at h
  split at h
  · cases h
  · next hf =>
    obtain ⟨r, hr, h2⟩ := andThen_eq_next.mp h
    obtain ⟨u, hu, h3⟩ := andThen_eq_next.mp h2
    exact ⟨hf, r.1, r.2, u, hr, hu, h3⟩

end Sys2Proof.Machine
end

