-- ==== Sys2Proof/Laws/PerInstr.lean ====
section
/-! SUPPORT. Statements made for each instruction as syntax, with one lemma for each constructor. -/

namespace Sys2Proof.Laws.EncodedLength

/-- R111: an instruction's encoding has the length of its format. -/
def Statement (i : Instr) : Prop := (encode i).length = i.format.length

theorem brk : Statement .brk := rfl
theorem oraIzx (b : Byte) : Statement (.oraIzx b) := rfl
theorem oraZp (b : Byte) : Statement (.oraZp b) := rfl
theorem aslZp (b : Byte) : Statement (.aslZp b) := rfl
theorem php : Statement .php := rfl
theorem oraImm (b : Byte) : Statement (.oraImm b) := rfl
theorem aslAcc : Statement .aslAcc := rfl
theorem oraAbs (w : Address) : Statement (.oraAbs w) := rfl
theorem aslAbs (w : Address) : Statement (.aslAbs w) := rfl
theorem bpl (d : Byte) : Statement (.bpl d) := rfl
theorem oraIzy (b : Byte) : Statement (.oraIzy b) := rfl
theorem oraZpx (b : Byte) : Statement (.oraZpx b) := rfl
theorem aslZpx (b : Byte) : Statement (.aslZpx b) := rfl
theorem clc : Statement .clc := rfl
theorem oraAby (w : Address) : Statement (.oraAby w) := rfl
theorem oraAbx (w : Address) : Statement (.oraAbx w) := rfl
theorem aslAbx (w : Address) : Statement (.aslAbx w) := rfl
theorem jsr (w : Address) : Statement (.jsr w) := rfl
theorem andIzx (b : Byte) : Statement (.andIzx b) := rfl
theorem bitZp (b : Byte) : Statement (.bitZp b) := rfl
theorem andZp (b : Byte) : Statement (.andZp b) := rfl
theorem rolZp (b : Byte) : Statement (.rolZp b) := rfl
theorem plp : Statement .plp := rfl
theorem andImm (b : Byte) : Statement (.andImm b) := rfl
theorem rolAcc : Statement .rolAcc := rfl
theorem bitAbs (w : Address) : Statement (.bitAbs w) := rfl
theorem andAbs (w : Address) : Statement (.andAbs w) := rfl
theorem rolAbs (w : Address) : Statement (.rolAbs w) := rfl
theorem bmi (d : Byte) : Statement (.bmi d) := rfl
theorem andIzy (b : Byte) : Statement (.andIzy b) := rfl
theorem andZpx (b : Byte) : Statement (.andZpx b) := rfl
theorem rolZpx (b : Byte) : Statement (.rolZpx b) := rfl
theorem sec : Statement .sec := rfl
theorem andAby (w : Address) : Statement (.andAby w) := rfl
theorem andAbx (w : Address) : Statement (.andAbx w) := rfl
theorem rolAbx (w : Address) : Statement (.rolAbx w) := rfl
theorem rti : Statement .rti := rfl
theorem eorIzx (b : Byte) : Statement (.eorIzx b) := rfl
theorem eorZp (b : Byte) : Statement (.eorZp b) := rfl
theorem lsrZp (b : Byte) : Statement (.lsrZp b) := rfl
theorem pha : Statement .pha := rfl
theorem eorImm (b : Byte) : Statement (.eorImm b) := rfl
theorem lsrAcc : Statement .lsrAcc := rfl
theorem jmpAbs (w : Address) : Statement (.jmpAbs w) := rfl
theorem eorAbs (w : Address) : Statement (.eorAbs w) := rfl
theorem lsrAbs (w : Address) : Statement (.lsrAbs w) := rfl
theorem bvc (d : Byte) : Statement (.bvc d) := rfl
theorem eorIzy (b : Byte) : Statement (.eorIzy b) := rfl
theorem eorZpx (b : Byte) : Statement (.eorZpx b) := rfl
theorem lsrZpx (b : Byte) : Statement (.lsrZpx b) := rfl
theorem cli : Statement .cli := rfl
theorem eorAby (w : Address) : Statement (.eorAby w) := rfl
theorem eorAbx (w : Address) : Statement (.eorAbx w) := rfl
theorem lsrAbx (w : Address) : Statement (.lsrAbx w) := rfl
theorem rts : Statement .rts := rfl
theorem adcIzx (b : Byte) : Statement (.adcIzx b) := rfl
theorem adcZp (b : Byte) : Statement (.adcZp b) := rfl
theorem rorZp (b : Byte) : Statement (.rorZp b) := rfl
theorem pla : Statement .pla := rfl
theorem adcImm (b : Byte) : Statement (.adcImm b) := rfl
theorem rorAcc : Statement .rorAcc := rfl
theorem jmpInd (w : Address) : Statement (.jmpInd w) := rfl
theorem adcAbs (w : Address) : Statement (.adcAbs w) := rfl
theorem rorAbs (w : Address) : Statement (.rorAbs w) := rfl
theorem bvs (d : Byte) : Statement (.bvs d) := rfl
theorem adcIzy (b : Byte) : Statement (.adcIzy b) := rfl
theorem adcZpx (b : Byte) : Statement (.adcZpx b) := rfl
theorem rorZpx (b : Byte) : Statement (.rorZpx b) := rfl
theorem sei : Statement .sei := rfl
theorem adcAby (w : Address) : Statement (.adcAby w) := rfl
theorem adcAbx (w : Address) : Statement (.adcAbx w) := rfl
theorem rorAbx (w : Address) : Statement (.rorAbx w) := rfl
theorem staIzx (b : Byte) : Statement (.staIzx b) := rfl
theorem styZp (b : Byte) : Statement (.styZp b) := rfl
theorem staZp (b : Byte) : Statement (.staZp b) := rfl
theorem stxZp (b : Byte) : Statement (.stxZp b) := rfl
theorem dey : Statement .dey := rfl
theorem txa : Statement .txa := rfl
theorem styAbs (w : Address) : Statement (.styAbs w) := rfl
theorem staAbs (w : Address) : Statement (.staAbs w) := rfl
theorem stxAbs (w : Address) : Statement (.stxAbs w) := rfl
theorem bcc (d : Byte) : Statement (.bcc d) := rfl
theorem staIzy (b : Byte) : Statement (.staIzy b) := rfl
theorem styZpx (b : Byte) : Statement (.styZpx b) := rfl
theorem staZpx (b : Byte) : Statement (.staZpx b) := rfl
theorem stxZpy (b : Byte) : Statement (.stxZpy b) := rfl
theorem tya : Statement .tya := rfl
theorem staAby (w : Address) : Statement (.staAby w) := rfl
theorem txs : Statement .txs := rfl
theorem staAbx (w : Address) : Statement (.staAbx w) := rfl
theorem ldyImm (b : Byte) : Statement (.ldyImm b) := rfl
theorem ldaIzx (b : Byte) : Statement (.ldaIzx b) := rfl
theorem ldxImm (b : Byte) : Statement (.ldxImm b) := rfl
theorem ldyZp (b : Byte) : Statement (.ldyZp b) := rfl
theorem ldaZp (b : Byte) : Statement (.ldaZp b) := rfl
theorem ldxZp (b : Byte) : Statement (.ldxZp b) := rfl
theorem tay : Statement .tay := rfl
theorem ldaImm (b : Byte) : Statement (.ldaImm b) := rfl
theorem tax : Statement .tax := rfl
theorem ldyAbs (w : Address) : Statement (.ldyAbs w) := rfl
theorem ldaAbs (w : Address) : Statement (.ldaAbs w) := rfl
theorem ldxAbs (w : Address) : Statement (.ldxAbs w) := rfl
theorem bcs (d : Byte) : Statement (.bcs d) := rfl
theorem ldaIzy (b : Byte) : Statement (.ldaIzy b) := rfl
theorem ldyZpx (b : Byte) : Statement (.ldyZpx b) := rfl
theorem ldaZpx (b : Byte) : Statement (.ldaZpx b) := rfl
theorem ldxZpy (b : Byte) : Statement (.ldxZpy b) := rfl
theorem clv : Statement .clv := rfl
theorem ldaAby (w : Address) : Statement (.ldaAby w) := rfl
theorem tsx : Statement .tsx := rfl
theorem ldyAbx (w : Address) : Statement (.ldyAbx w) := rfl
theorem ldaAbx (w : Address) : Statement (.ldaAbx w) := rfl
theorem ldxAby (w : Address) : Statement (.ldxAby w) := rfl
theorem cpyImm (b : Byte) : Statement (.cpyImm b) := rfl
theorem cmpIzx (b : Byte) : Statement (.cmpIzx b) := rfl
theorem cpyZp (b : Byte) : Statement (.cpyZp b) := rfl
theorem cmpZp (b : Byte) : Statement (.cmpZp b) := rfl
theorem decZp (b : Byte) : Statement (.decZp b) := rfl
theorem iny : Statement .iny := rfl
theorem cmpImm (b : Byte) : Statement (.cmpImm b) := rfl
theorem dex : Statement .dex := rfl
theorem cpyAbs (w : Address) : Statement (.cpyAbs w) := rfl
theorem cmpAbs (w : Address) : Statement (.cmpAbs w) := rfl
theorem decAbs (w : Address) : Statement (.decAbs w) := rfl
theorem bne (d : Byte) : Statement (.bne d) := rfl
theorem cmpIzy (b : Byte) : Statement (.cmpIzy b) := rfl
theorem cmpZpx (b : Byte) : Statement (.cmpZpx b) := rfl
theorem decZpx (b : Byte) : Statement (.decZpx b) := rfl
theorem cld : Statement .cld := rfl
theorem cmpAby (w : Address) : Statement (.cmpAby w) := rfl
theorem cmpAbx (w : Address) : Statement (.cmpAbx w) := rfl
theorem decAbx (w : Address) : Statement (.decAbx w) := rfl
theorem cpxImm (b : Byte) : Statement (.cpxImm b) := rfl
theorem sbcIzx (b : Byte) : Statement (.sbcIzx b) := rfl
theorem cpxZp (b : Byte) : Statement (.cpxZp b) := rfl
theorem sbcZp (b : Byte) : Statement (.sbcZp b) := rfl
theorem incZp (b : Byte) : Statement (.incZp b) := rfl
theorem inx : Statement .inx := rfl
theorem sbcImm (b : Byte) : Statement (.sbcImm b) := rfl
theorem nop : Statement .nop := rfl
theorem cpxAbs (w : Address) : Statement (.cpxAbs w) := rfl
theorem sbcAbs (w : Address) : Statement (.sbcAbs w) := rfl
theorem incAbs (w : Address) : Statement (.incAbs w) := rfl
theorem beq (d : Byte) : Statement (.beq d) := rfl
theorem sbcIzy (b : Byte) : Statement (.sbcIzy b) := rfl
theorem sbcZpx (b : Byte) : Statement (.sbcZpx b) := rfl
theorem incZpx (b : Byte) : Statement (.incZpx b) := rfl
theorem sed : Statement .sed := rfl
theorem sbcAby (w : Address) : Statement (.sbcAby w) := rfl
theorem sbcAbx (w : Address) : Statement (.sbcAbx w) := rfl
theorem incAbx (w : Address) : Statement (.incAbx w) := rfl

end Sys2Proof.Laws.EncodedLength
end

