-- ==== Sys2Proof/Laws/Refusal.lean ====
section
/-! SUPPORT. Nothing is ever refused: the operations, the instructions and the step. -/

namespace Sys2Proof.Machine

variable {σ τ : Type}

theorem neverRefuses_accessPortA (i : TimerId) (s : State) : NeverRefuses (accessPortA i s) := by
  unfold accessPortA; split
  · exact neverRefuses_raise _ _
  · exact neverRefuses_next _

theorem neverRefuses_accessPortB (i : TimerId) (s : State) : NeverRefuses (accessPortB i s) := by
  unfold accessPortB; split
  · exact neverRefuses_raise _ _
  · exact neverRefuses_next _

theorem neverRefuses_accessSR (i : TimerId) (s : State) : NeverRefuses (accessSR i s) := by
  unfold accessSR; split
  · exact neverRefuses_raise _ _
  · exact neverRefuses_next _

theorem neverRefuses_timerRead (i : TimerId) (off : Nat) (s : State) : NeverRefuses (timerRead i off s) := by
  unfold timerRead yieldByte
  split <;> first
    | exact neverRefuses_next _
    | exact neverRefuses_raise _ _
    | exact neverRefuses_andThen (neverRefuses_accessPortA _ _) fun _ => neverRefuses_next _
    | exact neverRefuses_andThen (neverRefuses_accessPortB _ _) fun _ => neverRefuses_next _
    | exact neverRefuses_andThen (neverRefuses_accessSR _ _) fun _ => neverRefuses_next _

theorem neverRefuses_timerWrite (i : TimerId) (off : Nat) (v : Byte) (s : State) :
    NeverRefuses (timerWrite i off v s) := by
  unfold timerWrite
  split <;> first
    | exact neverRefuses_next _
    | exact neverRefuses_raise _ _
    | exact neverRefuses_andThen (neverRefuses_accessPortA _ _) fun _ => neverRefuses_next _
    | exact neverRefuses_andThen (neverRefuses_accessPortB _ _) fun _ => neverRefuses_next _
    | exact neverRefuses_andThen (neverRefuses_accessSR _ _) fun _ => neverRefuses_next _

theorem neverRefuses_busRead (a : Address) (s : State) : NeverRefuses (busRead a s) := by
  unfold busRead
  split
  · exact neverRefuses_timerRead _ _ _
  · exact neverRefuses_next _
  · exact neverRefuses_next _

theorem neverRefuses_busWrite (a : Address) (v : Byte) (s : State) : NeverRefuses (busWrite a v s) := by
  unfold busWrite
  split
  · exact neverRefuses_timerWrite _ _ _ _
  · exact neverRefuses_next _
  · exact neverRefuses_next _

theorem neverRefuses_memRead (k : AccessKind) (a : Address) (s : State) : NeverRefuses (memRead k a s) :=
  neverRefuses_andThen (neverRefuses_busRead a s) fun _ => neverRefuses_next _

theorem neverRefuses_memWrite (a : Address) (v : Byte) (s : State) : NeverRefuses (memWrite a v s) :=
  neverRefuses_andThen (neverRefuses_busWrite a v s) fun _ => neverRefuses_next _

theorem neverRefuses_memRead16 (a b : Address) (s : State) : NeverRefuses (memRead16 a b s) :=
  neverRefuses_andThen (neverRefuses_memRead _ _ _) fun _ =>
    neverRefuses_andThen (neverRefuses_memRead _ _ _) fun _ => neverRefuses_next _

theorem neverRefuses_resolve (m : EaMode) (s : State) : NeverRefuses (resolve m s) := by
  cases m <;> first
    | exact neverRefuses_next _
    | exact neverRefuses_andThen (neverRefuses_memRead16 _ _ _) fun _ => neverRefuses_next _

theorem neverRefuses_load (t : Timing) (o : Operand) (s : State) : NeverRefuses (load t o s) := by
  cases o
  · exact neverRefuses_next _
  · exact neverRefuses_andThen (neverRefuses_resolve _ _) fun _ => neverRefuses_memRead _ _ _

theorem neverRefuses_push (v : Byte) (s : State) : NeverRefuses (push v s) :=
  neverRefuses_andThen (neverRefuses_memWrite _ _ _) fun _ => neverRefuses_next _

theorem neverRefuses_push16 (w : Address) (s : State) : NeverRefuses (push16 w s) :=
  neverRefuses_andThen (neverRefuses_push _ _) fun _ => neverRefuses_push _ _

theorem neverRefuses_pop (s : State) : NeverRefuses (pop s) := neverRefuses_memRead _ _ _

theorem neverRefuses_pop16 (s : State) : NeverRefuses (pop16 s) :=
  neverRefuses_andThen (neverRefuses_pop _) fun _ =>
    neverRefuses_andThen (neverRefuses_pop _) fun _ => neverRefuses_next _

theorem neverRefuses_takeException (ret : Address) (brk : Bool) (s : State) :
    NeverRefuses (takeException ret brk s) :=
  neverRefuses_andThen (neverRefuses_push16 _ _) fun _ =>
    neverRefuses_andThen (neverRefuses_push _ _) fun _ =>
      neverRefuses_andThen (neverRefuses_memRead16 _ _ _) fun _ => neverRefuses_next _

theorem neverRefuses_returnFromException (s : State) : NeverRefuses (returnFromException s) :=
  neverRefuses_andThen (neverRefuses_pop _) fun _ =>
    neverRefuses_andThen (neverRefuses_pop16 _) fun _ => neverRefuses_next _

theorem neverRefuses_adc (op v : Byte) (s : State) : NeverRefuses (adc op v s) := by
  unfold adc; split
  · exact neverRefuses_raise _ _
  · exact neverRefuses_next _

theorem neverRefuses_sbc (op v : Byte) (s : State) : NeverRefuses (sbc op v s) := by
  unfold sbc; split
  · exact neverRefuses_raise _ _
  · exact neverRefuses_next _

theorem neverRefuses_exec (i : Instr) (s : State) : NeverRefuses (exec i s) := by
  rw [exec_eq]
  have hop := arith_opcode i
  have hp := plain_cases i
  generalize meaningOf i = w at *
  cases w with
  | read o f =>
    exact neverRefuses_andThen (neverRefuses_load _ _ _) fun _ => neverRefuses_next _
  | arith o f =>
    refine neverRefuses_andThen (neverRefuses_load _ _ _) fun _ =>
      neverRefuses_andThen ?_ fun _ => neverRefuses_next _
    obtain ⟨op, _, e | e⟩ := hop o f rfl <;> subst e
    · exact neverRefuses_adc _ _ _
    · exact neverRefuses_sbc _ _ _
  | write m f =>
    exact neverRefuses_andThen (neverRefuses_resolve _ _) fun _ =>
      neverRefuses_andThen (neverRefuses_memWrite _ _ _) fun _ => neverRefuses_next _
  | modify m f =>
    exact neverRefuses_andThen (neverRefuses_resolve _ _) fun _ =>
      neverRefuses_andThen (neverRefuses_memRead _ _ _) fun _ =>
        neverRefuses_andThen (neverRefuses_memWrite _ _ _) fun _ => neverRefuses_next _
  | regs f => exact neverRefuses_next _
  | branch d c => exact neverRefuses_next _
  | plain f =>
    refine neverRefuses_andThen ?_ fun _ => neverRefuses_next _
    rcases hp f rfl with rfl | rfl | rfl | rfl | ⟨b, rfl⟩ | rfl | rfl | rfl | ⟨w, rfl⟩ | ⟨w, rfl⟩ | ⟨w, rfl⟩
    · exact neverRefuses_push _ _
    · exact neverRefuses_push _ _
    · exact neverRefuses_andThen (neverRefuses_pop _) fun _ => neverRefuses_next _
    · exact neverRefuses_andThen (neverRefuses_pop _) fun _ => neverRefuses_next _
    · exact neverRefuses_next _
    · exact neverRefuses_andThen (neverRefuses_pop16 _) fun _ => neverRefuses_next _
    · exact neverRefuses_takeException _ _ _
    · exact neverRefuses_returnFromException _
    · exact neverRefuses_next _
    · exact neverRefuses_andThen (neverRefuses_memRead16 _ _ _) fun _ => neverRefuses_next _
    · exact neverRefuses_andThen (neverRefuses_push16 _ _) fun _ => neverRefuses_next _

theorem neverRefuses_fetch (s : State) : NeverRefuses (fetch s) :=
  neverRefuses_andThen (neverRefuses_memRead _ _ _) fun _ => neverRefuses_next _

theorem neverRefuses_fetchInstr (s : State) : NeverRefuses (fetchInstr s) := by
  refine neverRefuses_andThen (neverRefuses_fetch _) fun r => ?_
  unfold decodeFetched
  split
  · exact neverRefuses_raise _ _
  · unfold fetchOperands
    split
    · exact neverRefuses_next _
    · exact neverRefuses_andThen (neverRefuses_fetch _) fun _ => neverRefuses_next _
    · exact neverRefuses_andThen (neverRefuses_fetch _) fun _ =>
        neverRefuses_andThen (neverRefuses_fetch _) fun _ => neverRefuses_next _

theorem neverRefuses_complete (s : State) : NeverRefuses (complete s) := by
  refine neverRefuses_andThen ?_ fun t => ?_
  · unfold interruptBoundary
    split
    · exact neverRefuses_next _
    · split
      · exact neverRefuses_andThen (neverRefuses_takeException _ _ _) fun _ => neverRefuses_next _
      · exact neverRefuses_next _
  · unfold settle
    split
    · simp [NeverRefuses]
    · exact neverRefuses_next _

theorem neverRefuses_step (s : State) : NeverRefuses (step s) := by
  unfold step
  split
  · simp [NeverRefuses]
  · exact neverRefuses_andThen (neverRefuses_fetchInstr _) fun _ =>
      neverRefuses_andThen (neverRefuses_exec _ _) fun _ => neverRefuses_complete _

end Sys2Proof.Machine
end

