-- ==== Sys2Proof/Tests/Slice0.lean ====
section
/-! SUPPORT. The model's own tests: the smoke of the checks, every encoding written out from the spec's tables, one step
from each of the spec's vectors (95_test_vectors.md), and for every statement with hypotheses a state that meets them. -/

namespace Sys2Proof.Tests

open Sys2Proof Sys2Proof.Machine

/-! ### The checks. No instruction is ill formed (R117); these platforms are (R10, R82). -/

theorem test_wellFormed_platformP0 : platformP0.wellFormed = true := by decide

theorem test_wellFormed_refuses_no_wrap : { platformP0 with cycleWrap := 0 }.wellFormed = false := by decide

theorem test_wellFormed_refuses_window0_above : { platformP0 with timerBase0 := some 0xFFF1 }.wellFormed = false := by
  decide

theorem test_wellFormed_refuses_window1_above : { platformP0 with timerBase1 := some 0xFFFF }.wellFormed = false := by
  decide

theorem test_wellFormed_refuses_overlap : { platformP0 with timerBase1 := some 0xFE4F }.wellFormed = false := by decide

theorem test_wellFormed_takes_adjacent : { platformP0 with timerBase1 := some 0xFE50 }.wellFormed = true := by decide

theorem test_wellFormed_takes_instructions :
    (Instr.jmpAbs 0xFFFF).wellFormed = true ∧ (Instr.bne 0x80).wellFormed = true ∧ Instr.brk.wellFormed = true := by
  decide

theorem test_decode_refuses_by_name :
    decode [] = .truncated ∧ decode [0b00000010] = .illegalOpcode 0x02 ∧ decode [0b10101101, 0x34] = .truncated := by
  decide

/-! ### Every encoding of spec/opcode_table.json, bit by bit, with its operand bytes. -/

theorem test_decode_row_0 :
    decode [0b00000000] = .ok .brk [] ∧
    decode [0b00000001, 0b10100101] = .ok (.oraIzx 0xA5) [] ∧
    decode [0b00000101, 0b10100101] = .ok (.oraZp 0xA5) [] ∧
    decode [0b00000110, 0b10100101] = .ok (.aslZp 0xA5) [] ∧
    decode [0b00001000] = .ok .php [] ∧
    decode [0b00001001, 0b10100101] = .ok (.oraImm 0xA5) [] ∧
    decode [0b00001010] = .ok .aslAcc [] ∧
    decode [0b00001101, 0b00110100, 0b00010010] = .ok (.oraAbs 0x1234) [] ∧
    decode [0b00001110, 0b00110100, 0b00010010] = .ok (.aslAbs 0x1234) [] := by
  decide

theorem test_decode_row_1 :
    decode [0b00010000, 0b10100101] = .ok (.bpl 0xA5) [] ∧
    decode [0b00010001, 0b10100101] = .ok (.oraIzy 0xA5) [] ∧
    decode [0b00010101, 0b10100101] = .ok (.oraZpx 0xA5) [] ∧
    decode [0b00010110, 0b10100101] = .ok (.aslZpx 0xA5) [] ∧
    decode [0b00011000] = .ok .clc [] ∧
    decode [0b00011001, 0b00110100, 0b00010010] = .ok (.oraAby 0x1234) [] ∧
    decode [0b00011101, 0b00110100, 0b00010010] = .ok (.oraAbx 0x1234) [] ∧
    decode [0b00011110, 0b00110100, 0b00010010] = .ok (.aslAbx 0x1234) [] := by
  decide

theorem test_decode_row_2 :
    decode [0b00100000, 0b00110100, 0b00010010] = .ok (.jsr 0x1234) [] ∧
    decode [0b00100001, 0b10100101] = .ok (.andIzx 0xA5) [] ∧
    decode [0b00100100, 0b10100101] = .ok (.bitZp 0xA5) [] ∧
    decode [0b00100101, 0b10100101] = .ok (.andZp 0xA5) [] ∧
    decode [0b00100110, 0b10100101] = .ok (.rolZp 0xA5) [] ∧
    decode [0b00101000] = .ok .plp [] ∧
    decode [0b00101001, 0b10100101] = .ok (.andImm 0xA5) [] ∧
    decode [0b00101010] = .ok .rolAcc [] ∧
    decode [0b00101100, 0b00110100, 0b00010010] = .ok (.bitAbs 0x1234) [] ∧
    decode [0b00101101, 0b00110100, 0b00010010] = .ok (.andAbs 0x1234) [] ∧
    decode [0b00101110, 0b00110100, 0b00010010] = .ok (.rolAbs 0x1234) [] := by
  decide

theorem test_decode_row_3 :
    decode [0b00110000, 0b10100101] = .ok (.bmi 0xA5) [] ∧
    decode [0b00110001, 0b10100101] = .ok (.andIzy 0xA5) [] ∧
    decode [0b00110101, 0b10100101] = .ok (.andZpx 0xA5) [] ∧
    decode [0b00110110, 0b10100101] = .ok (.rolZpx 0xA5) [] ∧
    decode [0b00111000] = .ok .sec [] ∧
    decode [0b00111001, 0b00110100, 0b00010010] = .ok (.andAby 0x1234) [] ∧
    decode [0b00111101, 0b00110100, 0b00010010] = .ok (.andAbx 0x1234) [] ∧
    decode [0b00111110, 0b00110100, 0b00010010] = .ok (.rolAbx 0x1234) [] := by
  decide

theorem test_decode_row_4 :
    decode [0b01000000] = .ok .rti [] ∧
    decode [0b01000001, 0b10100101] = .ok (.eorIzx 0xA5) [] ∧
    decode [0b01000101, 0b10100101] = .ok (.eorZp 0xA5) [] ∧
    decode [0b01000110, 0b10100101] = .ok (.lsrZp 0xA5) [] ∧
    decode [0b01001000] = .ok .pha [] ∧
    decode [0b01001001, 0b10100101] = .ok (.eorImm 0xA5) [] ∧
    decode [0b01001010] = .ok .lsrAcc [] ∧
    decode [0b01001100, 0b00110100, 0b00010010] = .ok (.jmpAbs 0x1234) [] ∧
    decode [0b01001101, 0b00110100, 0b00010010] = .ok (.eorAbs 0x1234) [] ∧
    decode [0b01001110, 0b00110100, 0b00010010] = .ok (.lsrAbs 0x1234) [] := by
  decide

theorem test_decode_row_5 :
    decode [0b01010000, 0b10100101] = .ok (.bvc 0xA5) [] ∧
    decode [0b01010001, 0b10100101] = .ok (.eorIzy 0xA5) [] ∧
    decode [0b01010101, 0b10100101] = .ok (.eorZpx 0xA5) [] ∧
    decode [0b01010110, 0b10100101] = .ok (.lsrZpx 0xA5) [] ∧
    decode [0b01011000] = .ok .cli [] ∧
    decode [0b01011001, 0b00110100, 0b00010010] = .ok (.eorAby 0x1234) [] ∧
    decode [0b01011101, 0b00110100, 0b00010010] = .ok (.eorAbx 0x1234) [] ∧
    decode [0b01011110, 0b00110100, 0b00010010] = .ok (.lsrAbx 0x1234) [] := by
  decide

theorem test_decode_row_6 :
    decode [0b01100000] = .ok .rts [] ∧
    decode [0b01100001, 0b10100101] = .ok (.adcIzx 0xA5) [] ∧
    decode [0b01100101, 0b10100101] = .ok (.adcZp 0xA5) [] ∧
    decode [0b01100110, 0b10100101] = .ok (.rorZp 0xA5) [] ∧
    decode [0b01101000] = .ok .pla [] ∧
    decode [0b01101001, 0b10100101] = .ok (.adcImm 0xA5) [] ∧
    decode [0b01101010] = .ok .rorAcc [] ∧
    decode [0b01101100, 0b00110100, 0b00010010] = .ok (.jmpInd 0x1234) [] ∧
    decode [0b01101101, 0b00110100, 0b00010010] = .ok (.adcAbs 0x1234) [] ∧
    decode [0b01101110, 0b00110100, 0b00010010] = .ok (.rorAbs 0x1234) [] := by
  decide

theorem test_decode_row_7 :
    decode [0b01110000, 0b10100101] = .ok (.bvs 0xA5) [] ∧
    decode [0b01110001, 0b10100101] = .ok (.adcIzy 0xA5) [] ∧
    decode [0b01110101, 0b10100101] = .ok (.adcZpx 0xA5) [] ∧
    decode [0b01110110, 0b10100101] = .ok (.rorZpx 0xA5) [] ∧
    decode [0b01111000] = .ok .sei [] ∧
    decode [0b01111001, 0b00110100, 0b00010010] = .ok (.adcAby 0x1234) [] ∧
    decode [0b01111101, 0b00110100, 0b00010010] = .ok (.adcAbx 0x1234) [] ∧
    decode [0b01111110, 0b00110100, 0b00010010] = .ok (.rorAbx 0x1234) [] := by
  decide

theorem test_decode_row_8 :
    decode [0b10000001, 0b10100101] = .ok (.staIzx 0xA5) [] ∧
    decode [0b10000100, 0b10100101] = .ok (.styZp 0xA5) [] ∧
    decode [0b10000101, 0b10100101] = .ok (.staZp 0xA5) [] ∧
    decode [0b10000110, 0b10100101] = .ok (.stxZp 0xA5) [] ∧
    decode [0b10001000] = .ok .dey [] ∧
    decode [0b10001010] = .ok .txa [] ∧
    decode [0b10001100, 0b00110100, 0b00010010] = .ok (.styAbs 0x1234) [] ∧
    decode [0b10001101, 0b00110100, 0b00010010] = .ok (.staAbs 0x1234) [] ∧
    decode [0b10001110, 0b00110100, 0b00010010] = .ok (.stxAbs 0x1234) [] := by
  decide

theorem test_decode_row_9 :
    decode [0b10010000, 0b10100101] = .ok (.bcc 0xA5) [] ∧
    decode [0b10010001, 0b10100101] = .ok (.staIzy 0xA5) [] ∧
    decode [0b10010100, 0b10100101] = .ok (.styZpx 0xA5) [] ∧
    decode [0b10010101, 0b10100101] = .ok (.staZpx 0xA5) [] ∧
    decode [0b10010110, 0b10100101] = .ok (.stxZpy 0xA5) [] ∧
    decode [0b10011000] = .ok .tya [] ∧
    decode [0b10011001, 0b00110100, 0b00010010] = .ok (.staAby 0x1234) [] ∧
    decode [0b10011010] = .ok .txs [] ∧
    decode [0b10011101, 0b00110100, 0b00010010] = .ok (.staAbx 0x1234) [] := by
  decide

theorem test_decode_row_A :
    decode [0b10100000, 0b10100101] = .ok (.ldyImm 0xA5) [] ∧
    decode [0b10100001, 0b10100101] = .ok (.ldaIzx 0xA5) [] ∧
    decode [0b10100010, 0b10100101] = .ok (.ldxImm 0xA5) [] ∧
    decode [0b10100100, 0b10100101] = .ok (.ldyZp 0xA5) [] ∧
    decode [0b10100101, 0b10100101] = .ok (.ldaZp 0xA5) [] ∧
    decode [0b10100110, 0b10100101] = .ok (.ldxZp 0xA5) [] ∧
    decode [0b10101000] = .ok .tay [] ∧
    decode [0b10101001, 0b10100101] = .ok (.ldaImm 0xA5) [] ∧
    decode [0b10101010] = .ok .tax [] ∧
    decode [0b10101100, 0b00110100, 0b00010010] = .ok (.ldyAbs 0x1234) [] ∧
    decode [0b10101101, 0b00110100, 0b00010010] = .ok (.ldaAbs 0x1234) [] ∧
    decode [0b10101110, 0b00110100, 0b00010010] = .ok (.ldxAbs 0x1234) [] := by
  decide

theorem test_decode_row_B :
    decode [0b10110000, 0b10100101] = .ok (.bcs 0xA5) [] ∧
    decode [0b10110001, 0b10100101] = .ok (.ldaIzy 0xA5) [] ∧
    decode [0b10110100, 0b10100101] = .ok (.ldyZpx 0xA5) [] ∧
    decode [0b10110101, 0b10100101] = .ok (.ldaZpx 0xA5) [] ∧
    decode [0b10110110, 0b10100101] = .ok (.ldxZpy 0xA5) [] ∧
    decode [0b10111000] = .ok .clv [] ∧
    decode [0b10111001, 0b00110100, 0b00010010] = .ok (.ldaAby 0x1234) [] ∧
    decode [0b10111010] = .ok .tsx [] ∧
    decode [0b10111100, 0b00110100, 0b00010010] = .ok (.ldyAbx 0x1234) [] ∧
    decode [0b10111101, 0b00110100, 0b00010010] = .ok (.ldaAbx 0x1234) [] ∧
    decode [0b10111110, 0b00110100, 0b00010010] = .ok (.ldxAby 0x1234) [] := by
  decide

theorem test_decode_row_C :
    decode [0b11000000, 0b10100101] = .ok (.cpyImm 0xA5) [] ∧
    decode [0b11000001, 0b10100101] = .ok (.cmpIzx 0xA5) [] ∧
    decode [0b11000100, 0b10100101] = .ok (.cpyZp 0xA5) [] ∧
    decode [0b11000101, 0b10100101] = .ok (.cmpZp 0xA5) [] ∧
    decode [0b11000110, 0b10100101] = .ok (.decZp 0xA5) [] ∧
    decode [0b11001000] = .ok .iny [] ∧
    decode [0b11001001, 0b10100101] = .ok (.cmpImm 0xA5) [] ∧
    decode [0b11001010] = .ok .dex [] ∧
    decode [0b11001100, 0b00110100, 0b00010010] = .ok (.cpyAbs 0x1234) [] ∧
    decode [0b11001101, 0b00110100, 0b00010010] = .ok (.cmpAbs 0x1234) [] ∧
    decode [0b11001110, 0b00110100, 0b00010010] = .ok (.decAbs 0x1234) [] := by
  decide

theorem test_decode_row_D :
    decode [0b11010000, 0b10100101] = .ok (.bne 0xA5) [] ∧
    decode [0b11010001, 0b10100101] = .ok (.cmpIzy 0xA5) [] ∧
    decode [0b11010101, 0b10100101] = .ok (.cmpZpx 0xA5) [] ∧
    decode [0b11010110, 0b10100101] = .ok (.decZpx 0xA5) [] ∧
    decode [0b11011000] = .ok .cld [] ∧
    decode [0b11011001, 0b00110100, 0b00010010] = .ok (.cmpAby 0x1234) [] ∧
    decode [0b11011101, 0b00110100, 0b00010010] = .ok (.cmpAbx 0x1234) [] ∧
    decode [0b11011110, 0b00110100, 0b00010010] = .ok (.decAbx 0x1234) [] := by
  decide

theorem test_decode_row_E :
    decode [0b11100000, 0b10100101] = .ok (.cpxImm 0xA5) [] ∧
    decode [0b11100001, 0b10100101] = .ok (.sbcIzx 0xA5) [] ∧
    decode [0b11100100, 0b10100101] = .ok (.cpxZp 0xA5) [] ∧
    decode [0b11100101, 0b10100101] = .ok (.sbcZp 0xA5) [] ∧
    decode [0b11100110, 0b10100101] = .ok (.incZp 0xA5) [] ∧
    decode [0b11101000] = .ok .inx [] ∧
    decode [0b11101001, 0b10100101] = .ok (.sbcImm 0xA5) [] ∧
    decode [0b11101010] = .ok .nop [] ∧
    decode [0b11101100, 0b00110100, 0b00010010] = .ok (.cpxAbs 0x1234) [] ∧
    decode [0b11101101, 0b00110100, 0b00010010] = .ok (.sbcAbs 0x1234) [] ∧
    decode [0b11101110, 0b00110100, 0b00010010] = .ok (.incAbs 0x1234) [] := by
  decide

theorem test_decode_row_F :
    decode [0b11110000, 0b10100101] = .ok (.beq 0xA5) [] ∧
    decode [0b11110001, 0b10100101] = .ok (.sbcIzy 0xA5) [] ∧
    decode [0b11110101, 0b10100101] = .ok (.sbcZpx 0xA5) [] ∧
    decode [0b11110110, 0b10100101] = .ok (.incZpx 0xA5) [] ∧
    decode [0b11111000] = .ok .sed [] ∧
    decode [0b11111001, 0b00110100, 0b00010010] = .ok (.sbcAby 0x1234) [] ∧
    decode [0b11111101, 0b00110100, 0b00010010] = .ok (.sbcAbx 0x1234) [] ∧
    decode [0b11111110, 0b00110100, 0b00010010] = .ok (.incAbx 0x1234) [] := by
  decide

/-! ### One step each, from the vectors of 95_test_vectors.md: the comment names the vector. -/

/-- A block on the reference platform with bytes in memory, code at an address and the vector at 0xFFFE at 0x0600. -/
def start (code : List Byte) (cells : List Host.Cell := []) (f : Regs → Regs := id) (pc : Address := 0x0400) : State :=
  { State.reset with
    regs := f { State.reset.regs with pc := pc }
    mem := placeBytes (cells.foldr (fun c m => writeByte m c.1 c.2) [(0xFFFF, 0x06)]) pc code
    ext := extP0 }

/-- What a step leaves, if it answers a next state. -/
def after {α : Type} (s : State) (f : State → α) : Option α :=
  match step s with
  | .next t => some (f t)
  | .fault _ => none
  | .refused _ => none

/-- The fault a step stops with, if it stops with one. -/
def stopOf (s : State) : Option Fault :=
  match step s with
  | .next _ => none
  | .fault e => some e
  | .refused _ => none

/-- P as a byte. -/
def status (s : State) : Byte := packP s.regs.p.b s.regs.p

/-- LS-1. -/
theorem test_lda_imm :
    after (start [0xA9, 0x00] [] (fun r => { r with a := 0x55, p := { r.p with n := true } }))
      (fun t => (t.regs.a, status t, t.regs.pc, chargedCycles t)) = some (0x00, 0x26, 0x0402, 2) := by
  decide

/-- LS-4. -/
theorem test_lda_abx_crossed :
    after (start [0xBD, 0xFF, 0x12] [(0x1300, 0x7E)] (fun r => { r with x := 0x01 }))
      (fun t => (t.regs.a, status t, t.regs.pc, chargedCycles t)) = some (0x7E, 0x24, 0x0403, 5) := by
  decide

/-- LS-3. -/
theorem test_ldx_zpy :
    after (start [0xB6, 0x10] [(0x000F, 0x55)] (fun r => { r with y := 0xFF }))
      (fun t => (t.regs.x, status t, chargedCycles t)) = some (0x55, 0x24, 4) := by
  decide

/-- R223: the index wraps inside zero page, N from 0x80. -/
theorem test_ldy_zpx :
    after (start [0xB4, 0xF0] [(0x0010, 0x80)] (fun r => { r with x := 0x20 }))
      (fun t => (t.regs.y, status t, chargedCycles t)) = some (0x80, 0xA4, 4) := by
  decide

/-- LS-7. -/
theorem test_lda_izx :
    after (start [0xA1, 0xFF] [(0x00FF, 0x34), (0x0000, 0x12), (0x1234, 0xAB)])
      (fun t => (t.regs.a, status t, chargedCycles t)) = some (0xAB, 0xA4, 6) := by
  decide

/-- LS-8. -/
theorem test_lda_izy :
    after (start [0xB1, 0x80] [(0x0080, 0xF8), (0x0081, 0x12), (0x1308, 0x01)] (fun r => { r with y := 0x10 }))
      (fun t => (t.regs.a, status t, chargedCycles t)) = some (0x01, 0x24, 6) := by
  decide

/-- AD-7. -/
theorem test_sta_izx :
    after (start [0x81, 0xFE] [(0x00FF, 0x00), (0x0000, 0x03)] (fun r => { r with x := 0x01, a := 0xE1 }))
      (fun t => (readByte t.mem 0x0300, status t, chargedCycles t)) = some (0xE1, 0x24, 6) := by
  decide

/-- LS-13. -/
theorem test_stx_abs :
    after (start [0x8E, 0x00, 0x02] [] (fun r => { r with x := 0xC3 }))
      (fun t => (readByte t.mem 0x0200, status t, chargedCycles t)) = some (0xC3, 0x24, 4) := by
  decide

/-- LS-11. -/
theorem test_sty_zpx :
    after (start [0x94, 0xFF] [] (fun r => { r with x := 0x02, y := 0x5A }))
      (fun t => (readByte t.mem 0x0001, status t, chargedCycles t)) = some (0x5A, 0x24, 4) := by
  decide

/-- R227. -/
theorem test_tax :
    after (start [0xAA] [] (fun r => { r with a := 0x80, x := 0x01 }))
      (fun t => (t.regs.x, t.regs.a, status t, chargedCycles t)) = some (0x80, 0x80, 0xA4, 2) := by
  decide

/-- LS-12. -/
theorem test_tay :
    after (start [0xA8] [] (fun r => { r with a := 0x00, y := 0x33 }))
      (fun t => (t.regs.y, t.regs.a, status t, chargedCycles t)) = some (0x00, 0x00, 0x26, 2) := by
  decide

/-- R229. -/
theorem test_txa :
    after (start [0x8A] [] (fun r => { r with a := 0x80, x := 0x01 }))
      (fun t => (t.regs.a, t.regs.x, status t, chargedCycles t)) = some (0x01, 0x01, 0x24, 2) := by
  decide

/-- R230. -/
theorem test_tya :
    after (start [0x98] [] (fun r => { r with a := 0x80, y := 0x00 }))
      (fun t => (t.regs.a, t.regs.y, status t, chargedCycles t)) = some (0x00, 0x00, 0x26, 2) := by
  decide

/-- LS-9. -/
theorem test_tsx :
    after (start [0xBA] [] (fun r => { r with sp := 0x00, x := 0x77 }))
      (fun t => (t.regs.x, status t, chargedCycles t)) = some (0x00, 0x26, 2) := by
  decide

/-- LS-10. -/
theorem test_txs :
    after (start [0x9A] [] (fun r => { r with x := 0x80, p := { r.p with z := true } }))
      (fun t => (t.regs.sp, status t, chargedCycles t)) = some (0x80, 0x26, 2) := by
  decide

/-- AL-16. -/
theorem test_adc_abx :
    after (start [0x7D, 0xFF, 0x12] [(0x1300, 0x01)] (fun r => { r with x := 0x01, a := 0x01, p := { r.p with c := true } }))
      (fun t => (t.regs.a, status t, chargedCycles t)) =
      some (0x03, 0x24, 5) := by
  decide

/-- AL-1. -/
theorem test_adc_decimal :
    stopOf (start [0x69, 0x01] [] (fun r => { r with a := 0x10, p := { r.p with d := true } })) =
      some (.unsupportedDecimal 0x69) := by
  decide

/-- R262: 0x50 - 0xB0 without a borrow is 0xA0, with a borrow out and overflow. -/
theorem test_sbc_imm :
    after (start [0xE9, 0xB0] [] (fun r => { r with a := 0x50, p := { r.p with c := true } }))
      (fun t => (t.regs.a, status t, chargedCycles t)) = some (0xA0, 0xE4, 2) := by
  decide

/-- AL-19. -/
theorem test_sbc_decimal :
    stopOf (start [0xE9, 0x00] [] (fun r => { r with a := 0x10, p := { r.p with c := true, d := true } })) =
      some (.unsupportedDecimal 0xE9) := by
  decide

/-- AL-12. -/
theorem test_and :
    after (start [0x29, 0x0F] [] (fun r => { r with a := 0xF0 }))
      (fun t => (t.regs.a, status t, chargedCycles t)) = some (0x00, 0x26, 2) := by
  decide

/-- AL-13. -/
theorem test_ora :
    after (start [0x09, 0x80] [] (fun r => { r with a := 0x01 }))
      (fun t => (t.regs.a, status t, chargedCycles t)) = some (0x81, 0xA4, 2) := by
  decide

/-- AL-14. -/
theorem test_eor :
    after (start [0x49, 0xFF] [] (fun r => { r with a := 0xFF }))
      (fun t => (t.regs.a, status t, chargedCycles t)) = some (0x00, 0x26, 2) := by
  decide

/-- AL-6. -/
theorem test_bit :
    after (start [0x24, 0x10] [(0x0010, 0xC0)] (fun r => { r with a := 0x01 }))
      (fun t => (t.regs.a, status t, chargedCycles t)) = some (0x01, 0xE6, 3) := by
  decide

/-- AL-3. -/
theorem test_cmp :
    after (start [0xC9, 0x41] [] (fun r => { r with a := 0x40 }))
      (fun t => (t.regs.a, status t, chargedCycles t)) = some (0x40, 0xA4, 2) := by
  decide

/-- AL-4. -/
theorem test_cpx :
    after (start [0xE0, 0x00] [] (fun r => { r with x := 0x80 }))
      (fun t => (t.regs.x, status t, chargedCycles t)) = some (0x80, 0xA5, 2) := by
  decide

/-- AL-5. -/
theorem test_cpy :
    after (start [0xC0, 0xFF] [] (fun r => { r with y := 0x7F }))
      (fun t => (t.regs.y, status t, chargedCycles t)) = some (0x7F, 0xA4, 2) := by
  decide

/-- AL-8. -/
theorem test_inc :
    after (start [0xE6, 0x10] [(0x0010, 0xFF)] (fun r => { r with p := { r.p with c := true, v := true } }))
      (fun t => (readByte t.mem 0x0010, status t, chargedCycles t)) = some (0x00, 0x67, 5) := by
  decide

/-- AL-9. -/
theorem test_dec :
    after (start [0xD6, 0x10] [] (fun r => { r with x := 0xF0 }))
      (fun t => (readByte t.mem 0x0000, status t, chargedCycles t)) = some (0xFF, 0xA4, 6) := by
  decide

/-- AL-10. -/
theorem test_inx :
    after (start [0xE8] [] (fun r => { r with x := 0xFF }))
      (fun t => (t.regs.x, status t, chargedCycles t)) = some (0x00, 0x26, 2) := by
  decide

/-- AL-18. -/
theorem test_iny :
    after (start [0xC8] [] (fun r => { r with y := 0x7F }))
      (fun t => (t.regs.y, status t, chargedCycles t)) = some (0x80, 0xA4, 2) := by
  decide

/-- AL-17. -/
theorem test_dex :
    after (start [0xCA] [] (fun r => { r with x := 0x01 }))
      (fun t => (t.regs.x, status t, chargedCycles t)) = some (0x00, 0x26, 2) := by
  decide

/-- AL-11. -/
theorem test_dey :
    after (start [0x88]) (fun t => (t.regs.y, status t, chargedCycles t)) = some (0xFF, 0xA4, 2) := by
  decide

/-- SH-6. -/
theorem test_asl_abx :
    after (start [0x1E, 0x00, 0x12] [(0x12FF, 0x40)] (fun r => { r with x := 0xFF }))
      (fun t => (readByte t.mem 0x12FF, status t, chargedCycles t)) = some (0x80, 0xA4, 7) := by
  decide

/-- SH-1. -/
theorem test_asl_acc :
    after (start [0x0A] [] (fun r => { r with a := 0x81 }))
      (fun t => (t.regs.a, status t, chargedCycles t)) = some (0x02, 0x25, 2) := by
  decide

/-- SH-2. -/
theorem test_lsr_acc :
    after (start [0x4A] [] (fun r => { r with a := 0x01 }))
      (fun t => (t.regs.a, status t, chargedCycles t)) = some (0x00, 0x27, 2) := by
  decide

/-- SH-8. -/
theorem test_lsr_zpx :
    after (start [0x56, 0x10] [(0x0011, 0x80)] (fun r => { r with x := 0x01 }))
      (fun t => (readByte t.mem 0x0011, status t, chargedCycles t)) = some (0x40, 0x24, 6) := by
  decide

/-- SH-3. -/
theorem test_rol_acc :
    after (start [0x2A] [] (fun r => { r with a := 0x80 }))
      (fun t => (t.regs.a, status t, chargedCycles t)) = some (0x00, 0x27, 2) := by
  decide

/-- SH-7. -/
theorem test_rol_abs :
    after (start [0x2E, 0x00, 0x02] [(0x0200, 0x7F)] (fun r => { r with p := { r.p with c := true } }))
      (fun t => (readByte t.mem 0x0200, status t, chargedCycles t)) = some (0xFF, 0xA4, 6) := by
  decide

/-- SH-4. -/
theorem test_ror_acc :
    after (start [0x6A] [] (fun r => { r with a := 0x01, p := { r.p with c := true } }))
      (fun t => (t.regs.a, status t, chargedCycles t)) = some (0x80, 0xA5, 2) := by
  decide

/-- SH-5. -/
theorem test_ror_zp :
    after (start [0x66, 0x10] [(0x0010, 0x01)])
      (fun t => (readByte t.mem 0x0010, status t, chargedCycles t)) = some (0x00, 0x27, 5) := by
  decide

/-- ST-1. -/
theorem test_pha :
    after (start [0x48] [] (fun r => { r with a := 0x5A, sp := 0x00 }))
      (fun t => (readByte t.mem 0x0100, t.regs.sp, status t, chargedCycles t)) = some (0x5A, 0xFF, 0x24, 3) := by
  decide

/-- ST-2. -/
theorem test_pla :
    after (start [0x68] [] (fun r => { r with a := 0x5A }))
      (fun t => (t.regs.a, t.regs.sp, status t, chargedCycles t)) = some (0x00, 0x00, 0x26, 4) := by
  decide

/-- ST-3. -/
theorem test_php :
    after (start [0x08] [] (fun r => { r with p := { r.p with n := true, c := true } }))
      (fun t => (readByte t.mem 0x01FF, t.regs.sp, status t, chargedCycles t)) = some (0xB5, 0xFE, 0xA5, 3) := by
  decide

/-- ST-5. -/
theorem test_plp :
    after (start [0x28] [] (fun r => { r with sp := 0xFE }))
      (fun t => (t.regs.sp, status t, t.irq.justCleared, chargedCycles t)) = some (0xFF, 0x20, true, 4) := by
  decide

/-- ST-8. -/
theorem test_clc :
    after (start [0x18] [] (fun r => { r with p := { r.p with c := true } }))
      (fun t => (status t, chargedCycles t)) = some (0x24, 2) := by
  decide

/-- ST-8. -/
theorem test_sec : after (start [0x38]) (fun t => (status t, chargedCycles t)) = some (0x25, 2) := by decide

/-- ST-6. -/
theorem test_cld :
    after (start [0xD8] [] (fun r => { r with p := { r.p with d := true } }))
      (fun t => (status t, chargedCycles t)) = some (0x24, 2) := by
  decide

/-- ST-6. -/
theorem test_sed : after (start [0xF8]) (fun t => (status t, chargedCycles t)) = some (0x2C, 2) := by decide

/-- ST-7. -/
theorem test_clv :
    after (start [0xB8] [] (fun r => { r with p := { r.p with v := true } }))
      (fun t => (status t, chargedCycles t)) = some (0x24, 2) := by
  decide

/-- ST-9. -/
theorem test_cli :
    after (start [0x58])
      (fun t => (status t, t.irq.justCleared, t.irq.justSet, chargedCycles t)) = some (0x20, true, false, 2) := by
  decide

/-- ST-9. -/
theorem test_sei :
    after (start [0x78] [] (fun r => { r with p := { r.p with i := false } }))
      (fun t => (status t, t.irq.justCleared, t.irq.justSet, chargedCycles t)) = some (0x24, false, true, 2) := by
  decide

/-- ST-10 and AD-4: PC wraps. -/
theorem test_nop :
    after (start [0xEA] [] (fun r => { r with a := 0x12, x := 0x34, p := { r.p with c := true } }) 0xFFFF)
      (fun t => (t.regs.a, t.regs.x, t.regs.pc, status t, chargedCycles t)) = some (0x12, 0x34, 0x0000, 0x25, 2) := by
  decide

/-- BR-1. -/
theorem test_bne_not_taken :
    after (start [0xD0, 0x05] [] (fun r => { r with p := { r.p with z := true } }))
      (fun t => (t.regs.pc, chargedCycles t)) = some (0x0402, 2) := by
  decide

/-- BR-3. -/
theorem test_bne_crossing :
    after (start [0xD0, 0x20] [] id 0x04F0) (fun t => (t.regs.pc, chargedCycles t)) = some (0x0512, 4) := by
  decide

/-- BR-4. -/
theorem test_bpl : after (start [0x10, 0xF0]) (fun t => (t.regs.pc, chargedCycles t)) = some (0x03F2, 4) := by decide

/-- BR-5. -/
theorem test_beq :
    after (start [0xF0, 0xFE] [] (fun r => { r with p := { r.p with z := true } }))
      (fun t => (t.regs.pc, chargedCycles t)) = some (0x0400, 3) := by
  decide

/-- BR-6. -/
theorem test_bmi :
    after (start [0x30, 0x02] [] (fun r => { r with p := { r.p with n := true } }))
      (fun t => (t.regs.pc, chargedCycles t)) = some (0x0404, 3) := by
  decide

/-- BR-7. -/
theorem test_bvc :
    after (start [0x50, 0x02] [] (fun r => { r with p := { r.p with v := true } }))
      (fun t => (t.regs.pc, chargedCycles t)) = some (0x0402, 2) := by
  decide

/-- BR-8. -/
theorem test_bvs :
    after (start [0x70, 0x02] [] (fun r => { r with p := { r.p with v := true } }))
      (fun t => (t.regs.pc, chargedCycles t)) = some (0x0404, 3) := by
  decide

/-- BR-9. -/
theorem test_bcc : after (start [0x90, 0x02]) (fun t => (t.regs.pc, chargedCycles t)) = some (0x0404, 3) := by decide

/-- BR-11. -/
theorem test_bcs :
    after (start [0xB0, 0x0D] [] (fun r => { r with p := { r.p with c := true } }) 0x04F0)
      (fun t => (t.regs.pc, chargedCycles t)) = some (0x04FF, 3) := by
  decide

/-- JM-1. -/
theorem test_jmp_abs :
    after (start [0x4C, 0x34, 0x12]) (fun t => (t.regs.pc, chargedCycles t)) = some (0x1234, 3) := by
  decide

/-- JM-2. -/
theorem test_jmp_ind :
    after (start [0x6C, 0xFF, 0x12] [(0x12FF, 0x00), (0x1200, 0x05), (0x1300, 0x99)])
      (fun t => (t.regs.pc, chargedCycles t)) = some (0x0500, 5) := by
  decide

/-- JM-4. -/
theorem test_jsr :
    after (start [0x20, 0x00, 0x10])
      (fun t => (readByte t.mem 0x01FF, readByte t.mem 0x01FE, t.regs.sp, t.regs.pc, chargedCycles t)) =
      some (0x04, 0x02, 0xFD, 0x1000, 6) := by
  decide

/-- JM-6. -/
theorem test_jsr_wrap :
    after (start [0x20, 0x00, 0x10] [] (fun r => { r with sp := 0x00 }))
      (fun t => (readByte t.mem 0x0100, readByte t.mem 0x01FF, t.regs.sp, chargedCycles t)) =
      some (0x04, 0x02, 0xFE, 6) := by
  decide

/-- JM-5. -/
theorem test_rts :
    after (start [0x60] [(0x01FE, 0x02), (0x01FF, 0x04)] (fun r => { r with sp := 0xFD }))
      (fun t => (t.regs.pc, t.regs.sp, chargedCycles t)) = some (0x0403, 0xFF, 6) := by
  decide

/-- BK-1. -/
theorem test_brk :
    after (start [0x00, 0xEA] [] (fun r => { r with p := { r.p with i := false, d := true } }))
      (fun t => ([readByte t.mem 0x01FF, readByte t.mem 0x01FE, readByte t.mem 0x01FD, t.regs.sp, status t], t.regs.pc, chargedCycles t)) =
      some ([0x04, 0x02, 0x38, 0xFC, 0x2C], 0x0600, 7) := by
  decide

/-- BK-3. -/
theorem test_rti :
    after (start [0x40] [(0x01FD, 0xC3), (0x01FE, 0x34), (0x01FF, 0x12)] (fun r => { r with sp := 0xFC }))
      (fun t => (t.regs.pc, t.regs.sp, status t, chargedCycles t)) = some (0x1234, 0xFF, 0xE3, 6) := by
  decide

/-- ER-1. -/
theorem test_illegal_opcode : stopOf (start [0x02, 0xEA]) = some (.unimplementedOpcode 0x02 0x0400) := by decide

/-- IO-1. -/
theorem test_wait :
    after { start [0xAD, 0x34, 0x12] with platform := { platformP0 with ioWait := [⟨0x1234, .read, 1⟩] } }
      (fun t => (t.sched.io, chargedCycles t, t.sched.total)) = some (1, 5, 5) := by
  decide

/-- SC-4. -/
theorem test_wrap :
    after { start [0xEA] with sched := { State.reset.sched with total := 0x3FFFFFFF }, ext := { extP0 with triggers := [some 0x40000005, none] } }
      (fun t => (t.sched.total, t.ext.triggers, t.ext.history, chargedCycles t)) =
      some (1, [some 5, none], [.wrapped 0x40000000, .advanced 2, .read 0x0400], 2) := by
  decide

/-- R80, R88, R197: what EXT is told of LDA abs of a device, newest first. -/
theorem test_told :
    after { start [0xAD, 0x00, 0xC0] with platform := { platformP0 with devices := [⟨0xC000, 1⟩] } }
      (fun t => (t.ext.history, chargedCycles t)) =
      some ([.advanced 1, .read 0xC000, .advanced 3, .read 0x0402, .read 0x0401, .read 0x0400], 4) := by
  decide

/-- R80: what EXT is told of a store. -/
theorem test_told_store :
    after (start [0x85, 0x10] [] (fun r => { r with a := 0x5A }))
      (fun t => (t.ext.history)) = some ([.advanced 1, .write 0x0010 0x5A, .advanced 2, .read 0x0401, .read 0x0400]) := by
  decide

/-- TIM-2: T1C = 17 at sub-point 3, so 20 at the start. -/
theorem test_t1_read :
    after { start [0xAD, 0x44, 0xFE] with via0 := { viaAfterReset with t1c := 20, ifr := 0x40 } }
      (fun t => (t.regs.a, t.via0.ifr, t.via0.t1c, chargedCycles t)) = some (0x08, 0x00, 16, 4) := by
  decide

/-- TIM-7: the load at sub-point 3, then 1 cycle. -/
theorem test_t1_load :
    after { start [0x8D, 0x45, 0xFE] with regs := { State.reset.regs with pc := 0x0400, a := 0xFF } }
      (fun t => (t.via0.t1l, t.via0.t1c)) = some (0xFFFF, 131070) := by
  decide

/-- TIM-1 and TIM-9: from -2 to -4, enabled. -/
theorem test_t1_expires :
    after { start [0xEA] with via0 := { viaAfterReset with t1c := -2, ier := 0x40 } }
      (fun t => (t.via0.t1c, t.via0.t1Fired, t.via0.ifr, t.irq.status, t.irq.countdown)) =
      some (-4, true, 0x40, 0x01, some (-1)) := by
  decide

/-- TIM-4. -/
theorem test_t1_free_run :
    after { start [0xEA] with via0 := { viaAfterReset with t1c := -2, t1l := 10, acr := 0x40 } }
      (fun t => (t.via0.t1c, t.via0.t1Fired, t.via0.ifr)) = some (20, false, 0x40) := by
  decide

/-- TIM-5. -/
theorem test_t2_expires :
    after { start [0xEA] with via0 := { viaAfterReset with t2c := -2, t2l := 5 } }
      (fun t => (t.via0.t2c, t.via0.t2Fired, t.via0.ifr)) = some (131068, true, 0x20) := by
  decide

/-- TIM-6. -/
theorem test_ier_read :
    after { start [0xAD, 0x4E, 0xFE] with via0 := { viaAfterReset with ier := 0x40 } }
      (fun t => (t.regs.a)) = some (0xC0) := by
  decide

/-- ER-2. -/
theorem test_shift_register :
    stopOf { start [0x8D, 0x4A, 0xFE] with via0 := { viaAfterReset with acr := 0x04 } } =
      some (.unsupportedShiftRegister .t0 10) := by
  decide

/-- ER-4. -/
theorem test_handshake :
    stopOf { start [0xAD, 0x41, 0xFE] with via0 := { viaAfterReset with pcr := 0x08 } } =
      some (.unsupportedHandshake .t0 1) := by
  decide

/-- ER-5. -/
theorem test_offset_15 :
    after { start [0xAD, 0x4F, 0xFE] with via0 := { viaAfterReset with pcr := 0x08 } }
      (fun t => (t.regs.a, status t)) = some (0xFF, 0xA4) := by
  decide

/-- LAT-1, step 1. -/
theorem test_irq_due :
    after { start [0xEA] [] (fun r => { r with p := { r.p with i := false } }) with
      irq := { State.reset.irq with status := 0x04 } }
      (fun t => (t.irq.due, t.irq.countdown, t.regs.pc, chargedCycles t)) =
      some (true, some 0, 0x0401, 2) := by
  decide

/-- LAT-1, step 2. -/
theorem test_irq_entry :
    after { start [0xEA] [] (fun r => { r with p := { r.p with i := false } }) with
      irq := { State.reset.irq with status := 0x04, due := true, countdown := some 0 } }
      (fun t => ([readByte t.mem 0x01FF, readByte t.mem 0x01FE, readByte t.mem 0x01FD, t.regs.sp, status t], t.regs.pc, t.irq.due, chargedCycles t)) =
      some ([0x04, 0x01, 0x20, 0xFC, 0x24], 0x0600, false, 9) := by
  decide

/-- LAT-3, step 2: no entry. -/
theorem test_irq_after_cli :
    after { start [0x58] with irq := { State.reset.irq with status := 0x04, due := true, countdown := some 0 } }
      (fun t => (t.regs.pc, t.irq.due, t.irq.countdown, chargedCycles t)) = some (0x0401, true, some (-2), 2) := by
  decide

/-- LAT-5, step 2: entry, and the pushed status has I set. -/
theorem test_irq_at_sei :
    after { start [0x78] [] (fun r => { r with p := { r.p with i := false } }) with
      irq := { State.reset.irq with status := 0x04, due := true, countdown := some 0 } }
      (fun t => (readByte t.mem 0x01FD, t.regs.pc, chargedCycles t)) =
      some (0x24, 0x0600, 9) := by
  decide

/-- LAT-7, step 2. -/
theorem test_irq_dropped :
    after { start [0xEA] with irq := { State.reset.irq with due := true, countdown := some 0 } }
      (fun t => (t.irq.due, t.irq.countdown)) = some (false, none) := by
  decide

theorem test_decodeTableWord :
    decodeTableWord 16 0x41A9 = some (.ldaImm 0x41) ∧ decodeTableWord 24 0x12344C = some (.jmpAbs 0x1234) ∧
    decodeTableWord 8 0xAD = some (.ldaAbs 0) ∧ decodeTableWord 8 0x02 = none := by
  decide

theorem test_withFetchWord :
    after (State.reset.withFetchWord 16 0x41A9) (fun t => (t.regs.a, t.regs.pc)) = some (0x41, 0x0002) ∧
    after ((start [] [] id 0xFE3F).withFetchWord 24 0x12344C) (fun t => t.regs.pc) = some 0x1234 := by
  decide

/-- Whether an outcome is a next state. -/
def answers {α : Type} : Host.Outcome α Fault Refusal → Bool
  | .next _ => true
  | .fault _ => false
  | .refused _ => false

theorem answers_next {α : Type} {o : Host.Outcome α Fault Refusal} (h : answers o = true) : ∃ x, o = .next x := by
  cases o with
  | next x => exact ⟨x, rfl⟩
  | fault e => cases h
  | refused r => cases h

/-! ### Witnesses: for every statement with hypotheses, states and operands that meet them together. -/

theorem supported_reset : Supported State.reset := ⟨by decide, by decide⟩

/-- The status of `start`: its fields that the hypotheses speak of. -/
theorem supported_start (code : List Byte) (cells : List Host.Cell) (f : Regs → Regs) (pc : Address) :
    Supported (start code cells f pc) := supported_reset

theorem stackPlain_reset : StackPlain 3 State.reset := ⟨by decide, by decide, by decide, trivial⟩

/-- The read instructions (LoadsReadTheirOperand, LogicalInstructionsCombineTheAccumulator,
ComparisonsSetCarryZeroNegative, AddAndSubtract): one of each mnemonic, the timers supported, D clear. -/
theorem witness_reads :
    [Instr.ldaImm 0, .ldxImm 0, .ldyImm 0, .andImm 0, .oraImm 0, .eorImm 0, .bitZp 0, .cmpImm 0, .cpxImm 0, .cpyImm 0,
      .adcImm 0, .sbcImm 0].map Instr.mnemonic =
      [.lda, .ldx, .ldy, .and, .ora, .eor, .bit, .cmp, .cpx, .cpy, .adc, .sbc] ∧
    Supported State.reset ∧ State.reset.regs.p.d = false :=
  ⟨by decide, supported_reset, rfl⟩

/-- AddAndSubtract, decimal mode. -/
theorem witness_decimal :
    let s := start [] [] (fun r => { r with p := { r.p with d := true } })
    ∃ v t, (Instr.adcImm 0x99).mnemonic = .adc ∧ s.regs.p.d = true ∧ operandOf (.adcImm 0x99) = some (.imm 0x99) ∧
      load (timingOf (.adcImm 0x99)) (.imm 0x99) s = .next (v, t) ∧ t.fault = none ∧
      (encode (.adcImm 0x99)).head? = some 0x69 ∧ (Instr.sbcImm 0x99).mnemonic = .sbc ∧
      operandOf (.sbcImm 0x99) = some (.imm 0x99) ∧ (encode (.sbcImm 0x99)).head? = some 0xE9 :=
  ⟨_, _, rfl, rfl, rfl, rfl, rfl, rfl, rfl, rfl, rfl⟩

/-- StoresWriteTheirRegister, IncrementAndDecrementMemory, ShiftsOfMemory: one memory form of each mnemonic; a store to
plain memory in canonical form, and one that reaches a timer. -/
theorem witness_writes :
    [Instr.staAbs 0x0200, .stxAbs 0, .styAbs 0, .incAbs 0, .decAbs 0, .aslAbs 0, .lsrAbs 0, .rolAbs 0, .rorAbs 0].map
      (fun i => (i.mnemonic, decide (i.format = .acc))) =
      [(.sta, false), (.stx, false), (.sty, false), (.inc, false), (.dec, false), (.asl, false), (.lsr, false),
        (.rol, false), (.ror, false)] ∧
    Supported State.reset ∧ route State.reset.platform 0x0200 = .memory ∧ Memory.wf State.reset.mem = true ∧
    route State.reset.platform 0xFE42 ≠ .memory :=
  ⟨by decide, supported_reset, by decide, by decide, by decide⟩

/-- BranchesFollowTheirFlag: each condition, true and false. -/
theorem witness_branches :
    let clear : Flags := { c := false, z := false, i := false, d := false, b := false, v := false, n := false }
    let set : Flags := { c := true, z := true, i := true, d := true, b := true, v := true, n := true }
    (clear.n = false ∧ set.n = true) ∧ (clear.v = false ∧ set.v = true) ∧ (clear.c = false ∧ set.c = true) ∧
      (clear.z = false ∧ set.z = true) := by
  decide

/-- PushesStoreOneByte, PullsLoadOneByte, SubroutineReturnAddsOne, ReturnFromInterruptRestores: supported timers, the
stack in plain memory at both ends of the page, and the bytes pulled. -/
theorem witness_stack :
    Supported State.reset ∧
    ([0x00, 0x01, 0xFE, 0xFF].all fun sp : Byte =>
      decide (route State.reset.platform (0x0100 + zext16 (sp + 1)) = .memory)) = true ∧
    MemoryByte State.reset (stackAddr (State.reset.regs.sp + 1)) 0 ∧
    MemoryByte State.reset (stackAddr (State.reset.regs.sp + 2)) 0 ∧
    MemoryByte State.reset (stackAddr (State.reset.regs.sp + 3)) 0 :=
  ⟨supported_reset, by decide, ⟨by decide, rfl⟩, ⟨by decide, rfl⟩, ⟨by decide, rfl⟩⟩

/-- JumpsSetTheProgramCounter: supported timers, the pointer's bytes plain memory, with its low byte below 0xFF and
at 0xFF. -/
theorem witness_jumps :
    Supported State.reset ∧
    ([0x12FE, 0x12FF].all fun w : Address =>
      decide (route State.reset.platform w = .memory ∧ route State.reset.platform (indirectHigh w) = .memory)) = true :=
  ⟨supported_reset, by decide⟩

/-- SubroutineCallPushesReturnAddress, SoftwareInterruptTakesTheException, InterruptEntryTakesTheException: the pushes
and the vector reads answer, the frame is plain memory in canonical form, and the vector too; no access waits, and no
timer is enabled. -/
theorem witness_exceptions :
    (∃ t, push16 (State.reset.regs.pc - 1) State.reset = .next t) ∧
    (∃ t, takeException (State.reset.regs.pc + 1) true State.reset = .next t) ∧
    Supported State.reset ∧ StackPlain 2 State.reset ∧ StackPlain 3 State.reset ∧ Memory.wf State.reset.mem = true ∧
    MemoryByte State.reset 0xFFFE 0 ∧ MemoryByte State.reset 0xFFFF 0 ∧ State.reset.platform.ioWait = [] ∧
    State.reset.via0.ier &&& 0x60 = 0 ∧ State.reset.via1.ier &&& 0x60 = 0 ∧
    (∃ t u w x, push16 (State.reset.regs.pc + 1) State.reset = .next t ∧ push (packP true t.regs.p) t = .next u ∧
      memRead16 0xFFFE 0xFFFF (u.setP { u.regs.p with i := true }) = .next (w, x)) :=
  ⟨answers_next (by decide), answers_next (by decide), supported_reset, ⟨by decide, by decide, trivial⟩, stackPlain_reset,
    by decide, ⟨by decide, rfl⟩, ⟨by decide, rfl⟩, rfl, rfl, rfl, _, _, _, _, rfl, rfl, rfl⟩

/-- AddressingModesResolve, OperandsOfPlainMemoryAreItsBytes: both pointer reads answer, and pointer and operand are
plain memory, with the pointer at the end of zero page too. -/
theorem witness_addressing :
    (∃ l t h u, memRead .read (zext16 (0xFF + State.reset.regs.x)) State.reset = .next (l, t) ∧
      memRead .read (zext16 (0xFF + State.reset.regs.x + 1)) t = .next (h, u)) ∧
    (∃ l t h u, memRead .read (zext16 0xFF) State.reset = .next (l, t) ∧
      memRead .read (zext16 (0xFF + 1)) t = .next (h, u)) ∧
    PointersPlain State.reset (.izx 0xFF) ∧ PointersPlain State.reset (.izy 0xFF) ∧
    PointersPlain State.reset (.abx 0xFFFF) ∧
    route State.reset.platform (plainEa State.reset (.izx 0xFF)) = .memory ∧
    route State.reset.platform (plainEa State.reset (.izy 0xFF)) = .memory ∧
    route State.reset.platform (plainEa State.reset (.abs 0xFFFF)) = .memory :=
  ⟨⟨_, _, _, _, rfl, rfl⟩, ⟨_, _, _, _, rfl, rfl⟩, ⟨by decide, by decide⟩, ⟨by decide, by decide⟩, trivial, by decide,
    by decide, by decide⟩

/-- InstructionCost: an instruction that completes outside an entry, with an operand that is none, an immediate, and a
byte of memory whose index crosses a page and pays for it. -/
theorem witness_cost :
    State.reset.sched.inEntry = false ∧ (∃ u, exec .nop State.reset = .next u) ∧ operandOf .nop = none ∧
    (∃ u, exec (.ldaImm 7) State.reset = .next u) ∧ operandOf (.ldaImm 7) = some (.imm 7) ∧
    (∃ s : State, (∃ u, exec (.ldaAbx 0x12FF) s = .next u) ∧ s.sched.inEntry = false ∧
     operandOf (.ldaAbx 0x12FF) = some (.byte (.abx 0x12FF)) ∧ (timingOf (.ldaAbx 0x12FF)).penalty = true ∧
     ∃ r t, resolve (.abx 0x12FF) s = .next (r, t) ∧ r.crossed = true) :=
  ⟨rfl, answers_next (by decide), rfl, answers_next (by decide), rfl,
    ⟨start [] [] (fun r => { r with x := 1 }), answers_next (by decide), rfl, rfl, rfl, _, _, rfl, by decide⟩⟩

/-- RegistersHaveTheirWriters, FlagsHaveTheirWriters, OnlyControlTransfersWriteThePc, OnlyStoresWriteMemory,
OnlyTrackedInstructionsSetTheMarkers: instructions that complete, tracked and not. -/
theorem witness_frames :
    (∃ u, exec .sei State.reset = .next u) ∧ Instr.sei.mnemonic ∈ [Mnemonic.sei, .cli, .plp] ∧
    (∃ u, exec (.staAbs 0x0200) State.reset = .next u) ∧
    (Instr.staAbs 0x0200).mnemonic ∉ [Mnemonic.sei, .cli, .plp] :=
  ⟨⟨_, rfl⟩, by decide, ⟨_, rfl⟩, by decide⟩

/-- EveryInstructionCompletes. -/
theorem witness_completion : Supported State.reset ∧ State.reset.regs.p.d = false ∧ StackPlain 3 State.reset :=
  ⟨supported_reset, rfl, stackPlain_reset⟩

/-- DecodeOfEncodeIsTheInstruction: a well-formed instruction, and bytes that decode. -/
theorem witness_decode :
    (Instr.jmpInd 0xFFFF).wellFormed = true ∧ decode [0x6C, 0xFF, 0xFF, 0xEA] = .ok (.jmpInd 0xFFFF) [0xEA] := by
  decide

/-- IllegalOpcodesAreExactlyTheListed: the first and the last of the listed, fetched by a block that runs. -/
theorem witness_illegal :
    (0x02 : Byte) ∈ illegalOpcodes ∧ (0xFF : Byte) ∈ illegalOpcodes ∧ (start [0x02]).fault = none ∧
    (∃ t, fetch (beginInstr (start [0x02])) = .next (0x02, t) ∧ t.fault = none) :=
  ⟨by decide, by decide, rfl, _, rfl, rfl⟩

/-- StepRunsTheDecodedInstruction: each way a step ends: a raise of the fetch, of the instruction, and of an entry
whose push meets a timer in a shift mode; a fault that the environment sets; and a next state. -/
theorem witness_step_ends :
    ((start [0x02]).fault = none ∧ ∃ e, fetchInstr (beginInstr (start [0x02])) = .fault e) ∧
    (let s := start [0x69, 0x01] [] (fun r => { r with p := { r.p with d := true } })
     s.fault = none ∧ ∃ i t e, fetchInstr (beginInstr s) = .next (i, t) ∧ exec i t = .fault e) ∧
    (let s :=
      { start [0xEA] [] (fun r => { r with sp := 0xFA, p := { r.p with i := false } }) with
        irq := { State.reset.irq with status := 0x04, due := true, countdown := some 0 }
        platform := { platformP0 with timerBase0 := some 0x01F0 }
        via0 := { viaAfterReset with acr := 0x04 } }
     s.fault = none ∧ ∃ i t u e, fetchInstr (beginInstr s) = .next (i, t) ∧ exec i t = .next u ∧
       interruptBoundary (addTotal u.sched.instr u) = .fault e) ∧
    (let s := { start [0xEA] with ext := { extP0 with script := [[.setSource 7]] } }
     s.fault = none ∧ ∃ i t u x e, fetchInstr (beginInstr s) = .next (i, t) ∧ exec i t = .next u ∧
       interruptBoundary (addTotal u.sched.instr u) = .next x ∧ x.fault = some e) ∧
    (let s := start [0xEA]
     s.fault = none ∧ ∃ i t u x, fetchInstr (beginInstr s) = .next (i, t) ∧ exec i t = .next u ∧
       interruptBoundary (addTotal u.sched.instr u) = .next x ∧ x.fault = none ∧ u.irq.status = 0) :=
  ⟨⟨rfl, _, rfl⟩, ⟨rfl, _, _, _, rfl, rfl⟩, ⟨rfl, _, _, _, _, rfl, rfl, rfl⟩, ⟨rfl, _, _, _, _, _, rfl, rfl, rfl, rfl⟩,
    ⟨rfl, _, _, _, _, rfl, rfl, rfl, rfl, rfl⟩⟩

/-- StepRunsTheDecodedInstruction: bytes at PC that decode, in plain memory with no wait. -/
theorem witness_step :
    let s := start [0xA9, 0x41]
    (∃ i t, fetchInstr (beginInstr s) = .next (i, t)) ∧ s.fault = none ∧
    (∀ k : Nat, k < 3 → route s.platform (s.regs.pc + BitVec.ofNat 16 k) = .memory ∧
      waitIn (s.regs.pc + BitVec.ofNat 16 k) .fetch s.platform.ioWait = 0) ∧
    decode [readByte s.mem s.regs.pc.toNat, readByte s.mem (s.regs.pc + 1).toNat,
      readByte s.mem (s.regs.pc + 2).toNat] = .ok (.ldaImm 0x41) [0x00] := by
  refine ⟨⟨_, _, rfl⟩, rfl, by decide, by decide⟩

/-- FaultedBlockStaysFaulted. -/
theorem witness_faulted :
    { State.reset with fault := some (.unimplementedOpcode 0x02 0x0400) }.fault =
      some (.unimplementedOpcode 0x02 0x0400) := rfl

/-- StepKeepsTheInvariant: a block with a request due and a timer's line up, that meets the invariant and steps. -/
theorem witness_invariant :
    let s : State :=
      { start [0xEA] with
        via0 := { viaAfterReset with ifr := 0x40, ier := 0x40 }
        irq := { State.reset.irq with status := 0x01, due := true, countdown := some 0 } }
    Inv s ∧ ∃ t, step s = .next t :=
  ⟨⟨by decide, by decide, by decide, by decide, by decide, rfl, rfl⟩, _, rfl⟩

/-- MemoryReadsTheLastWrite: canonical memories, with the lowest and the highest address listed. -/
theorem witness_memory :
    Memory.wf [(0, 1), (65535, 255)] = true ∧ (1 : Nat) ≠ (0xFFFF : Address).toNat ∧
    (∃ m n : List Host.Cell, Memory.wf m = true ∧ Memory.wf n = true ∧
      ∀ a : Address, readByte m a.toNat = readByte n a.toNat) :=
  ⟨by decide, by decide, [], [], rfl, rfl, fun _ => rfl⟩

/-- BusAccessesWait: plain memory, outside an entry. (Its clauses for every route have no hypothesis.) -/
theorem witness_waits :
    route platformP0 0x1234 = .memory ∧ State.reset.platform = platformP0 ∧ State.reset.sched.inEntry = false :=
  ⟨by decide, rfl, rfl⟩

/-- AddressesAreRouted: each window's first and last address, the addresses beside them, and the highest window. -/
theorem witness_routes :
    platformP0.wellFormed = true ∧
    ([0xFE40, 0xFE4F].all fun a : Address =>
      decide ((0xFE40 : Address).toNat ≤ a.toNat ∧ a.toNat ≤ (0xFE40 : Address).toNat + 15)) = true ∧
    ([0xFE60, 0xFE6F].all fun a : Address =>
      decide ((0xFE60 : Address).toNat ≤ a.toNat ∧ a.toNat ≤ (0xFE60 : Address).toNat + 15)) = true ∧
    ([0xFE3F, 0xFE50, 0xFE5F, 0xFE70].all fun a : Address =>
      decide ((a.toNat < (0xFE40 : Address).toNat ∨ (0xFE40 : Address).toNat + 15 < a.toNat) ∧
        (a.toNat < (0xFE60 : Address).toNat ∨ (0xFE60 : Address).toNat + 15 < a.toNat))) = true ∧
    { platformP0 with timerBase0 := some 0xFFF0 }.wellFormed = true ∧
    route { platformP0 with devices := [⟨0xC000, 16⟩] } 0xFE40 = .timer .t0 0 ∧
    route { platformP0 with devices := [⟨0xC000, 16⟩] } 0xC00F = .device ∧
    route { platformP0 with devices := [⟨0xC000, 16⟩] } 0xC010 = .memory := by
  decide

/-- AdvanceMovesTime: a script that is left, and one that has ended. -/
theorem witness_script :
    extP0.script = [] ∧ { extP0 with script := [[.setSource 2], []] }.script = [.setSource 2] :: [[]] := ⟨rfl, rfl⟩

/-- PushAndPopAreInverse: across the wrap of the stack pointer. -/
theorem witness_pushPop :
    let s := start [] [] (fun r => { r with sp := 0x00 })
    Memory.wf s.mem = true ∧ StackPlain 1 s ∧ StackPlain 2 s ∧ (∃ t, push 0x12 s = .next t) ∧
      ∃ t, push16 0x1234 s = .next t :=
  ⟨by decide, ⟨by decide, trivial⟩, ⟨by decide, by decide, trivial⟩, ⟨_, rfl⟩, ⟨_, rfl⟩⟩

/-- TotalCyclesWrap: a total just at the threshold, and one above it. -/
theorem witness_wrap :
    let s := { State.reset with sched := { State.reset.sched with total := 0x3FFFFFFE } }
    s.sched.total + 2 ≤ s.platform.cycleWrap ∧ s.platform.cycleWrap < s.sched.total + 3 ∧
      s.sched.total ≤ s.platform.cycleWrap ∧ 3 ≤ s.platform.cycleWrap := by
  decide

/-- TriggersAreTimestamps, InterruptPortAcceptsExternalSources, DirectTimerCallsCheckTheirArguments: a block that runs;
the source ids at the ends of the range and beside them; an offset and a number just outside. -/
theorem witness_calls :
    State.reset.fault = none ∧ (2 ≤ 2 ∧ 2 ≤ 6) ∧ (2 ≤ 6 ∧ 6 ≤ 6) ∧ ¬(2 ≤ 1 ∧ 1 ≤ 6) ∧ ¬(2 ≤ 7 ∧ 7 ≤ 6) ∧
    (15 < 16 ∨ 1 < 0) ∧ (15 < 0 ∨ 1 < 2) ∧ route platformP0 0xFE4F = .timer .t0 15 := by
  decide

/-- BoundaryFollowsTheServiceCondition: no source; a request at its threshold that is served; the same one cycle
short of it. -/
theorem witness_boundary :
    let s (k : Int) : State :=
      { start [] [] (fun r => { r with p := { r.p with i := false } }) with
        irq := { State.reset.irq with status := 0x04, due := true, countdown := some k } }
    State.reset.irq.status = 0 ∧ (s (-2)).irq.status ≠ 0 ∧
    (((s (-2)).regs.p.i = false ∨ (s (-2)).irq.justSet = true) ∧
      (∃ k, (s (-2)).irq.countdown = some k ∧ k ≤ -2 - ((s (-2)).sched.io : Int)) ∧
      (s (-2)).irq.justCleared = false) ∧
    ¬(∃ k, (s (-1)).irq.countdown = some k ∧ k ≤ -2 - ((s (-1)).sched.io : Int)) := by
  refine ⟨rfl, by decide, ⟨.inl rfl, ⟨_, rfl, by decide⟩, rfl⟩, ?_⟩
  rintro ⟨k, h, hk⟩
  cases h
  exact absurd hk (by decide)

/-- A block whose next step ends with an interrupt entry (LAT-1, step 2). -/
def served : State :=
  { start [0xEA] [] (fun r => { r with p := { r.p with i := false } }) with
    irq := { State.reset.irq with status := 0x04, due := true, countdown := some 0 } }

/-- MaskedBlockTakesNoInterrupt: a step that ends with an entry. -/
theorem witness_entry :
    served.fault = none ∧ ∃ i t u x, fetchInstr (beginInstr served) = .next (i, t) ∧ exec i t = .next u ∧
      step served = .next x ∧ x.sched.entry ≠ 0 := by
  obtain ⟨x, hx⟩ := answers_next (o := step served) (by decide)
  obtain ⟨hf, i, t, u, h1, h2, _⟩ := step_next hx
  have h : after served (fun t => t.sched.entry) = some 7 := by decide
  rw [after, hx] at h
  refine ⟨hf, i, t, u, x, h1, h2, hx, ?_⟩
  rw [Option.some.inj h]
  decide

/-- TimerRegistersRead, TimerRegistersWrite: supported modes, and the first offset outside. -/
theorem witness_timer_registers :
    ¬(viaAfterReset.cb2Control = 4 ∨ viaAfterReset.cb2Control = 5) ∧
    ¬(viaAfterReset.ca2Control = 4 ∨ viaAfterReset.ca2Control = 5) ∧ viaAfterReset.shiftMode = 0 ∧ 15 < 16 ∧
    State.reset.fault = none := by
  decide

/-- UnsupportedTimerModesFail: each failing mode, at the ends of its range. -/
theorem witness_timer_modes :
    State.reset.fault = none ∧ (0x04 : Byte).extractLsb' 2 3 ≠ 0#3 ∧ (0x1C : Byte).extractLsb' 2 3 ≠ 0#3 ∧
    (0x08 : Byte).extractLsb' 1 3 = 4#3 ∧ (0x0A : Byte).extractLsb' 1 3 = 5#3 ∧ (0x80 : Byte).extractLsb' 5 3 = 4#3 ∧
    (0xA0 : Byte).extractLsb' 5 3 = 5#3 := by
  decide

/-- TimerOneExpires, TimerTwoExpiresOnce: a counter at -2 and one just below it; the fired flag set and clear. -/
theorem witness_expiry :
    let v : Via := { viaAfterReset with t1c := -3, t2c := -3 }
    let w : Via := { viaAfterReset with t1c := -2, t2c := -2, t1Fired := true, t2Fired := true }
    v.t1c < -2 ∧ v.t1Fired = false ∧ v.t2c < -2 ∧ v.t2Fired = false ∧ -2 ≤ w.t1c ∧ -2 ≤ w.t2c ∧ w.t1Fired = true ∧
      w.t2Fired = true ∧ w.acr.getLsbD 6 = false ∧ ({ v with acr := 0x40 } : Via).acr.getLsbD 6 = true := by
  decide

/-- TimersCountCycles: an advance that leaves both counters at -2, one past a T2 that counts pulses and stands at -2, and
a latch counted to its end. -/
theorem witness_counting :
    let v : Via := { viaAfterReset with t1c := 2, t2c := 2 }
    let w : Via := { viaAfterReset with t1c := 2, t2c := -2, acr := 0x20 }
    0xFFFF ≤ (0xFFFF : Address).toNat ∧ -2 ≤ v.t1c - 4 ∧ -2 ≤ (if v.acr.getLsbD 5 then v.t2c else v.t2c - 4) ∧
      -2 ≤ (if w.acr.getLsbD 5 then w.t2c else w.t2c - 4) := by
  decide

/-- ResetMeetsTheInvariant: an image that holds the reset vector. -/
theorem witness_image : Memory.wf [(0xFFFC, 0x34), (0xFFFD, 0x12)] = true := by decide

/-- ResetReinitialisesTheBlock, ResetStateIsResetAtPowerUp: the vector in plain memory, and a block as at power-up with
an image. -/
theorem witness_reset :
    MemoryByte State.reset 0xFFFC 0 ∧ MemoryByte State.reset 0xFFFD 0 ∧
    (∃ s : State, s.irq.status = 0 ∧ s.mem = [(0xFFFD, 0x12)] ∧ s.platform = platformP0 ∧ s.ext = extP0 ∧
      s.regs.a ≠ 0) ∧ 2 ≤ 7 :=
  ⟨⟨by decide, rfl⟩, ⟨by decide, rfl⟩,
    ⟨{ start [] with regs := { State.reset.regs with a := 0x77 }, mem := [(0xFFFD, 0x12)] }, rfl, rfl, rfl, rfl,
      by decide⟩, by decide⟩

/-- OneShotTimerFiresOnce: a one-shot timer just loaded with latch 10, and the same once it has fired. -/
theorem witness_oneShot :
    let v : Via := { viaAfterReset with t1c := 21 }
    v.acr.getLsbD 6 = false ∧ v.t1c = 2 * ((10 : Address).toNat : Int) + 1 ∧ v.t1Fired = false ∧
      v.ifr.getLsbD 6 = false ∧ ({ v with t1Fired := true } : Via).t1Fired = true := by
  decide

end Sys2Proof.Tests
end

/-! The statements about 10_state.md: the status byte, and what an instruction may write of the registers. -/

namespace Sys2Proof.Machine

/-! ### The status byte (R36) -/

/-- R36: each bit of the packed byte, found by passing over the flags appended after it. -/
theorem packP_getLsbD (b : Bool) (p : Flags) :
    (packP b p).getLsbD 7 = p.n ∧ (packP b p).getLsbD 6 = p.v ∧ (packP b p).getLsbD 5 = true ∧
    (packP b p).getLsbD 4 = b ∧ (packP b p).getLsbD 3 = p.d ∧ (packP b p).getLsbD 2 = p.i ∧
    (packP b p).getLsbD 1 = p.z ∧ (packP b p).getLsbD 0 = p.c := by
  unfold packP
  refine ⟨?_, ?_, ?_, ?_, ?_, ?_, ?_, ?_⟩ <;>
  · repeat rw [BitVec.getLsbD_append]
    simp

/-- R36: what is pulled after a push is the flags pushed, with B as the push gave it. -/
theorem unpackP_packP (b : Bool) (p : Flags) : unpackP (packP b p) = { p with b := b } := by
  obtain ⟨hn, hv, _, hb, hd, hi, hz, hc⟩ := packP_getLsbD b p
  simp only [unpackP, hn, hv, hb, hd, hi, hz, hc]

/-- R36: "It ignores `v[5]`". -/
theorem unpackP_or_bit5 (v : Byte) : unpackP (v ||| 0x20) = unpackP v := by
  simp [unpackP]

/-- Settles O59: the eight bits of the packed byte, and from them the way back. -/
theorem statusPacksAndUnpacks : Obligations.StatusPacksAndUnpacks := by
  unfold Obligations.StatusPacksAndUnpacks
  refine ⟨fun b p => ?_, fun v => ⟨rfl, unpackP_or_bit5 v⟩⟩
  obtain ⟨hn, hv, h5, hb, hd, hi, hz, hc⟩ := packP_getLsbD b p
  exact ⟨hn, hv, h5, hb, hd, hi, hz, hc, unpackP_packP b p⟩

/-! ### What an instruction may write of the registers (R31 to R43) -/

/-- The registers that a shape of meaning can leave when it answers a next state: `Meaning.effect` without the memory
and the time. -/
def Meaning.leavesRegs (s : State) (q : Regs) : Meaning → Prop
  | .read _ f => ∃ v, q = f v s.regs
  | .arith _ _ => ∃ v, q = addRegs v s.regs ∨ q = subRegs v s.regs
  | .write _ _ => q = s.regs
  | .modify _ f => ∃ v, q = { s.regs with p := (f v s.regs.p).2 }
  | .regs f => q = f s.regs
  | .branch _ _ => ∃ pc, q = { s.regs with pc := pc }
  | .plain f => ∃ t, f s = .next t ∧ q = t.regs

/-- R360: of the registers a branch writes the program counter alone, taken or not. -/
theorem branch_regs (cond : Bool) (d : Byte) (s : State) :
    ∃ pc, (branch cond d s).regs = { s.regs with pc := pc } := by
  cases cond
  · exact ⟨s.regs.pc, rfl⟩
  · exact ⟨branchTarget s.regs.pc d, rfl⟩

theorem exec_leavesRegs {i : Instr} {s u : State} (h : exec i s = .next u) : (meaningOf i).leavesRegs s u.regs := by
  have he := exec_effect i h
  generalize meaningOf i = w at he
  cases w with
  | read o f => exact he.imp fun v q => q.regs
  | arith o f => exact he.imp fun v q => q.imp (·.regs) (·.regs)
  | write m f =>
    obtain ⟨a, st, _⟩ := he
    exact st.regs
  | modify m f =>
    obtain ⟨a, v, st, _⟩ := he
    exact ⟨v, st.regs⟩
  | regs f => exact he.regs
  | branch d c =>
    obtain ⟨pc, hb⟩ := branch_regs (c s.regs.p) d s
    exact ⟨pc, he.regs.trans hb⟩
  | plain f =>
    obtain ⟨t, ht, q⟩ := he
    exact ⟨t, ht, q.regs⟩

/-- Two register files that differ at most in what 10_state.md lets an instruction of this mnemonic write; `acc` says
that it is an accumulator form. -/
structure WritesOnly (m : Mnemonic) (acc : Prop) (r q : Regs) : Prop where
  a  : q.a = r.a ∨ m ∈ [.lda, .pla, .txa, .tya, .adc, .sbc, .and, .ora, .eor] ∨ acc
  x  : q.x = r.x ∨ m ∈ [.ldx, .tax, .tsx, .inx, .dex]
  y  : q.y = r.y ∨ m ∈ [.ldy, .tay, .iny, .dey]
  sp : q.sp = r.sp ∨ m ∈ [.txs, .pha, .php, .pla, .plp, .jsr, .rts, .brk, .rti]
  c  : q.p.c = r.p.c ∨ m ∈ [.adc, .sbc, .cmp, .cpx, .cpy, .asl, .lsr, .rol, .ror, .clc, .sec, .plp, .rti]
  i  : q.p.i = r.p.i ∨ m ∈ [.sei, .cli, .plp, .rti, .brk]
  d  : q.p.d = r.p.d ∨ m ∈ [.sed, .cld, .plp, .rti]
  b  : q.p.b = r.p.b ∨ m ∈ [.plp, .rti]
  v  : q.p.v = r.p.v ∨ m ∈ [.adc, .sbc, .bit, .clv, .plp, .rti]
  zn : (q.p.z = r.p.z ∧ q.p.n = r.p.n) ∨
    m ∈ [.lda, .ldx, .ldy, .tax, .tay, .txa, .tya, .tsx, .adc, .sbc, .and, .ora, .eor, .bit, .cmp, .cpx, .cpy, .inc,
      .dec, .inx, .iny, .dex, .dey, .asl, .lsr, .rol, .ror, .pla, .plp, .rti]

/-- The case split behind the two frames: the mnemonics by the shape their meaning has, each group with the registers
that its shape leaves. A shift writes A in its accumulator form, and its other forms are modifications of memory. -/
theorem writesOnly_of_leavesRegs {m : Mnemonic} {acc : Prop} {w : Meaning} {s : State} {q : Regs}
    (hw : mnemonicShape w m) (ha : m ∈ [.asl, .lsr, .rol, .ror] → ¬ acc → ∃ e f, w = .modify e f)
    (hq : w.leavesRegs s q) : WritesOnly m acc s.regs q := by
  cases m
  case lda | ldx | ldy | and | ora | eor | bit | cmp | cpx | cpy =>
    obtain ⟨o, rfl⟩ := hw
    obtain ⟨v, rfl⟩ := hq
    constructor <;>
      simp [loadA, loadX, loadY, andA, oraA, eorA, bitTest, compareA, compareX, compareY, setZN, bitFlags,
        compareFlags]
  case adc | sbc =>
    obtain ⟨o, op, rfl⟩ := hw
    obtain ⟨v, rfl | rfl⟩ := hq <;> constructor <;> simp [addRegs, subRegs, adcFlags, sbcFlags, setZN]
  case sta | stx | sty =>
    obtain ⟨e, rfl⟩ := hw
    cases hq
    constructor <;> simp
  case inc | dec =>
    obtain ⟨e, rfl⟩ := hw
    obtain ⟨v, rfl⟩ := hq
    constructor <;> simp [incResult, decResult, setZN]
  case asl | lsr | rol | ror =>
    obtain rfl | ⟨e, rfl⟩ := hw
    · have hacc : acc := by simpa using ha
      cases hq
      constructor <;> simp [hacc, accumulator, aslResult, lsrResult, rolResult, rorResult, shiftFlags, setCZN]
    · obtain ⟨v, rfl⟩ := hq
      constructor <;> simp [aslResult, lsrResult, rolResult, rorResult, shiftFlags, setCZN]
  case tax | tay | txa | tya | tsx | txs | inx | iny | dex | dey | clc | cld | clv | sec | sed | nop =>
    cases hw
    cases hq
    constructor <;>
      simp [transferAX, transferAY, transferXA, transferYA, transferSX, transferXS, incrementX, incrementY,
        decrementX, decrementY, clearC, clearD, clearV, setC, setD, setZN, setFlagsExplicit, pickFlag, noFlags]
  case bpl | bmi | bvc | bvs | bcc | bcs | bne | beq =>
    obtain ⟨d, rfl⟩ := hw
    obtain ⟨pc, rfl⟩ := hq
    constructor <;> simp
  case pha | php =>
    cases hw
    obtain ⟨t, ht, rfl⟩ := hq
    have hr := (push_moves ht).regs
    constructor <;> simp [hr]
  case pla =>
    cases hw
    obtain ⟨t, ht, rfl⟩ := hq
    obtain ⟨v, hm⟩ := pullA_moves ht
    constructor <;> simp [hm.regs, setZN]
  case plp =>
    cases hw
    obtain ⟨t, ht, rfl⟩ := hq
    obtain ⟨v, hr, _⟩ := pullP_moves ht
    constructor <;> simp [hr]
  case cli | sei =>
    cases hw
    obtain ⟨t, ht, rfl⟩ := hq
    cases ht
    constructor <;> simp
  case jmp =>
    obtain ⟨a, rfl | rfl⟩ := hw <;> obtain ⟨t, ht, rfl⟩ := hq
    · cases ht
      constructor <;> simp
    · obtain ⟨b, hm⟩ := jumpIndirect_moves ht
      constructor <;> simp [hm.regs]
  case jsr =>
    obtain ⟨a, rfl⟩ := hw
    obtain ⟨t, ht, rfl⟩ := hq
    obtain ⟨b, hm⟩ := call_moves ht
    constructor <;> simp [hm.regs]
  case rts =>
    cases hw
    obtain ⟨t, ht, rfl⟩ := hq
    obtain ⟨a, hm⟩ := returnFromSubroutine_moves ht
    constructor <;> simp [hm.regs]
  case brk =>
    cases hw
    obtain ⟨t, ht, rfl⟩ := hq
    obtain ⟨a, b, hm⟩ := takeException_moves ht
    constructor <;> simp [hm.regs]
  case rti =>
    cases hw
    obtain ⟨t, ht, rfl⟩ := hq
    obtain ⟨v, a, hm⟩ := returnFromException_moves ht
    constructor <;> simp [hm.regs]

theorem exec_writesOnly {i : Instr} {s u : State} (h : exec i s = .next u) :
    WritesOnly i.mnemonic (i.format = .acc) s.regs u.regs :=
  writesOnly_of_leavesRegs (meaningOf_shape i) (shift_memory i) (exec_leavesRegs h)

/-- Settles O24: the register half of `WritesOnly`, which every instruction meets. -/
theorem registersHaveTheirWriters : Obligations.RegistersHaveTheirWriters := by
  unfold Obligations.RegistersHaveTheirWriters
  intro i s u h
  have w := exec_writesOnly h
  exact ⟨w.a, w.x, w.y, w.sp⟩

/-- Settles O25: the flag half of `WritesOnly`, which every instruction meets. -/
theorem flagsHaveTheirWriters : Obligations.FlagsHaveTheirWriters := by
  unfold Obligations.FlagsHaveTheirWriters
  intro i s u h
  have w := exec_writesOnly h
  exact ⟨w.c, w.i, w.d, w.b, w.v, w.zn⟩

end Sys2Proof.Machine

/-! The statements about 20_memory.md: which instructions write memory, what memory reads as, the waits of the bus, and
where an access goes. -/

namespace Sys2Proof.Machine

/-! ### What an instruction may write of memory (R87, R88) -/

/-- The memory that a shape of meaning can leave when it answers a next state; of a store or a modification nothing is
said. -/
def Meaning.leavesMem (s : State) (m : List Host.Cell) : Meaning → Prop
  | .write _ _ => True
  | .modify _ _ => True
  | .plain f => ∃ t, f s = .next t ∧ m = t.mem
  | _ => m = s.mem

theorem branch_mem (cond : Bool) (d : Byte) (s : State) : (branch cond d s).mem = s.mem := by
  cases cond <;> rfl

theorem exec_leavesMem {i : Instr} {s u : State} (h : exec i s = .next u) : (meaningOf i).leavesMem s u.mem := by
  have he := exec_effect i h
  generalize meaningOf i = w at he
  cases w with
  | read o f =>
    obtain ⟨v, q⟩ := he
    exact q.mem
  | arith o f =>
    obtain ⟨v, q | q⟩ := he <;> exact q.mem
  | write m f => trivial
  | modify m f => trivial
  | regs f => exact he.mem
  | branch d c => exact he.mem.trans (branch_mem _ d s)
  | plain f =>
    obtain ⟨t, ht, q⟩ := he
    exact ⟨t, ht, q.mem⟩

/-- No modification has the accumulator format; the accumulator forms of the shifts are changes of registers. -/
theorem modify_format (i : Instr) : ∀ e f, meaningOf i = .modify e f → i.format ≠ .acc := by
  cases i <;> intro e f h <;> cases h <;> exact Format.noConfusion

/-- The case split behind the frame of memory: the mnemonics by the shape their meaning has. A shift is either a change
of registers or a modification; the instructions with effects of their own keep memory unless they push. -/
theorem mem_of_leavesMem {m : Mnemonic} {w : Meaning} {s : State} {q : List Host.Cell} (hw : mnemonicShape w m)
    (hq : w.leavesMem s q) :
    q = s.mem ∨ (m ∈ [.asl, .lsr, .rol, .ror] ∧ ∃ e f, w = .modify e f) ∨
      m ∈ [.sta, .stx, .sty, .inc, .dec, .pha, .php, .jsr, .brk] := by
  cases m
  case sta | stx | sty | inc | dec | pha | php | jsr | brk => exact .inr (.inr (by decide))
  case asl | lsr | rol | ror =>
    obtain rfl | ⟨e, rfl⟩ := hw
    · exact .inl hq
    · exact .inr (.inl ⟨by decide, e, _, rfl⟩)
  case lda | ldx | ldy | and | ora | eor | bit | cmp | cpx | cpy =>
    obtain ⟨o, rfl⟩ := hw
    exact .inl hq
  case adc | sbc =>
    obtain ⟨o, op, rfl⟩ := hw
    exact .inl hq
  case tax | tay | txa | tya | tsx | txs | inx | iny | dex | dey | clc | cld | clv | sec | sed | nop =>
    cases hw
    exact .inl hq
  case bpl | bmi | bvc | bvs | bcc | bcs | bne | beq =>
    obtain ⟨d, rfl⟩ := hw
    exact .inl hq
  case pla =>
    cases hw
    obtain ⟨t, ht, rfl⟩ := hq
    obtain ⟨v, hm⟩ := pullA_moves ht
    exact .inl hm.mem
  case plp =>
    cases hw
    obtain ⟨t, ht, rfl⟩ := hq
    obtain ⟨v, _, hm, _⟩ := pullP_moves ht
    exact .inl hm
  case cli | sei =>
    cases hw
    obtain ⟨t, ht, rfl⟩ := hq
    cases ht
    exact .inl rfl
  case jmp =>
    obtain ⟨a, rfl | rfl⟩ := hw <;> obtain ⟨t, ht, rfl⟩ := hq
    · cases ht
      exact .inl rfl
    · obtain ⟨b, hm⟩ := jumpIndirect_moves ht
      exact .inl hm.mem
  case rts =>
    cases hw
    obtain ⟨t, ht, rfl⟩ := hq
    obtain ⟨a, hm⟩ := returnFromSubroutine_moves ht
    exact .inl hm.mem
  case rti =>
    cases hw
    obtain ⟨t, ht, rfl⟩ := hq
    obtain ⟨v, a, hm⟩ := returnFromException_moves ht
    exact .inl hm.mem

/-- Settles O27: the frame of memory by mnemonic, where a shift that modifies memory has no accumulator form. -/
theorem onlyStoresWriteMemory : Obligations.OnlyStoresWriteMemory := by
  unfold Obligations.OnlyStoresWriteMemory
  intro i s u h
  obtain hm | ⟨hs, e, f, hf⟩ | hs := mem_of_leavesMem (meaningOf_shape i) (exec_leavesMem h)
  · exact .inl hm
  · exact .inr (.inl ⟨hs, modify_format i e f hf⟩)
  · exact .inr (.inr hs)

/-! ### Canonical memories as functions of the address (R92, R97) -/

theorem wfFrom_cons {lo a : Nat} {v : Byte} {rest : List Host.Cell} :
    Memory.wfFrom lo ((a, v) :: rest) = true ↔
      lo ≤ a ∧ a < 65536 ∧ v ≠ unlistedByte ∧ Memory.wfFrom (a + 1) rest = true := by
  simp only [Memory.wfFrom, Bool.and_eq_true, decide_eq_true_eq, and_assoc]

/-- The first address that a canonical memory lists tells it apart from every memory that lists only higher ones. -/
theorem readByte_head_ne {lo lo' a : Nat} {v : Byte} {rest n : List Host.Cell}
    (hm : Memory.wfFrom lo ((a, v) :: rest) = true) (hn : Memory.wfFrom lo' n = true) (h : a < lo') :
    readByte ((a, v) :: rest) a ≠ readByte n a := by
  obtain ⟨_, _, hv, _⟩ := wfFrom_cons.mp hm
  rw [readByte_below h hn]
  simpa [readByte] using hv

/-- Two canonical memories that read alike at every address are equal: their first addresses agree, since the lower of
two would tell them apart, then their first bytes, and so on. -/
theorem wfFrom_ext {lo : Nat} : {m n : List Host.Cell} → Memory.wfFrom lo m = true → Memory.wfFrom lo n = true →
    (∀ c < 65536, readByte m c = readByte n c) → m = n
  | [], [], _, _, _ => rfl
  | (a, v) :: rest, [], hm, _, h => by
    obtain ⟨_, ha, _, _⟩ := wfFrom_cons.mp hm
    exact absurd (h a ha) (readByte_head_ne hm (n := []) rfl (Nat.lt_succ_self a))
  | [], (b, u) :: rest, _, hn, h => by
    obtain ⟨_, hb, _, _⟩ := wfFrom_cons.mp hn
    exact absurd (h b hb).symm (readByte_head_ne hn (n := []) rfl (Nat.lt_succ_self b))
  | (a, v) :: rm, (b, u) :: rn, hm, hn, h => by
    obtain ⟨_, ha, hv, hrm⟩ := wfFrom_cons.mp hm
    obtain ⟨_, hb, hu, hrn⟩ := wfFrom_cons.mp hn
    obtain hab | hab | hab := lt_trichotomy a b
    · exact absurd (h a ha) (readByte_head_ne hm (wfFrom_cons.mpr ⟨le_refl b, hb, hu, hrn⟩) hab)
    · subst hab
      have hvu : v = u := by simpa [readByte] using h a ha
      have hr : rm = rn := wfFrom_ext hrm hrn fun c hc => by
        obtain hca | hca := Nat.lt_or_ge c (a + 1)
        · rw [readByte_below hca hrm, readByte_below hca hrn]
        · have hne : c ≠ a := by omega
          simpa [readByte, hne] using h c hc
      rw [hvu, hr]
    · exact absurd (h b hb).symm (readByte_head_ne hn (wfFrom_cons.mpr ⟨le_refl a, ha, hv, hrm⟩) hab)

theorem wf_ext {m n : List Host.Cell} (hm : Memory.wf m = true) (hn : Memory.wf n = true)
    (h : ∀ a : Address, readByte m a.toNat = readByte n a.toNat) : m = n :=
  wfFrom_ext hm hn fun c hc => by simpa [Nat.mod_eq_of_lt hc] using h (BitVec.ofNat 16 c)

/-- The first `k` bytes of an image, written one after the other. -/
theorem exists_wf_readByte_below (image : Address → Byte) {k : Nat} (hk : k ≤ 65536) :
    ∃ m : List Host.Cell, Memory.wf m = true ∧ ∀ a : Address, a.toNat < k → readByte m a.toNat = image a := by
  induction k with
  | zero => exact ⟨[], rfl, fun a h => absurd h (Nat.not_lt_zero _)⟩
  | succ k ih =>
    obtain ⟨m, hm, hr⟩ := ih (by omega)
    refine ⟨_, wf_writeByte hm (BitVec.ofNat 16 k) (image (BitVec.ofNat 16 k)), fun a ha => ?_⟩
    by_cases he : a = BitVec.ofNat 16 k
    · rw [he, readByte_writeByte_same hm]
    · rw [readByte_writeByte_other _ fun h => he (BitVec.eq_of_toNat_eq h)]
      exact hr a (by bv_omega)

/-- Settles O37: the laws of a write, and the canonical lists as exactly the images. -/
theorem memoryReadsTheLastWrite : Obligations.MemoryReadsTheLastWrite := by
  unfold Obligations.MemoryReadsTheLastWrite
  refine ⟨fun m a v h => ?_, fun m n => wf_ext, fun image => ?_⟩
  · exact ⟨wf_writeByte h a v, readByte_writeByte_same h _ v, fun c hc => readByte_writeByte_other v hc m⟩
  · obtain ⟨m, hm, hr⟩ := exists_wf_readByte_below image (le_refl 65536)
    exact ⟨m, hm, fun a => hr a a.isLt⟩

/-! ### The wait after an access (R86) -/

theorem ioWait_io (k : AccessKind) (a : Address) (s : State) :
    (ioWait k a s).sched.io = s.sched.io + waitIn a k s.platform.ioWait := by
  simp only [ioWait, advance_io]

/-- R86, R196: outside an interrupt entry the wait is charged to the instruction. -/
theorem ioWait_instr (k : AccessKind) (a : Address) {s : State} (h : s.sched.inEntry = false) :
    (ioWait k a s).sched.instr = s.sched.instr + waitIn a k s.platform.ioWait := by
  have hc := (costs_ioWait k a s).cost h
  have hio := ioWait_io k a s
  omega

/-- Settles O38: the accesses are the bus access and then `ioWait`, and plain memory neither faults nor takes time of
its own. -/
theorem busAccessesWait : Obligations.BusAccessesWait := by
  unfold Obligations.BusAccessesWait
  refine ⟨fun k a s => rfl, fun a v s => rfl, fun k a s hr he => ?_, fun a v s hr he => ?_, fun k a => rfl⟩
  · have hq := (quiet_record (.read a) s).trans (quiet_ioWait k a _)
    exact ⟨_, memRead_memory k hr, hq, ioWait_io k a _, ioWait_instr k a he⟩
  · have hw := memWrite_memory v hr
    obtain ⟨hs, hm⟩ := steady_memWrite hw
    rw [storedMem, if_pos hr] at hm
    exact ⟨_, hw, hs, hm, ioWait_io .write a _, ioWait_instr .write a he⟩

/-! ### Where an access goes (R82, R83) -/

theorem windowOffset_inside {a b : Address} (hl : b.toNat ≤ a.toNat) (hu : a.toNat ≤ b.toNat + 15) :
    windowOffset (some b) a = some (a.toNat - b.toNat) :=
  if_pos ⟨hl, hu⟩

theorem windowOffset_outside {base : Option Address} {a : Address}
    (h : ∀ b : Address, base = some b → a.toNat < b.toNat ∨ b.toNat + 15 < a.toNat) : windowOffset base a = none := by
  cases base with
  | none => rfl
  | some b =>
    have hb := h b rfl
    exact if_neg (by omega)

theorem route_window0 {p : Platform} {a : Address} {off : Nat} (h : windowOffset p.timerBase0 a = some off) :
    route p a = .timer .t0 off := by
  simp only [route, h]

theorem route_window1 {p : Platform} {a : Address} {off : Nat} (h0 : windowOffset p.timerBase0 a = none)
    (h1 : windowOffset p.timerBase1 a = some off) : route p a = .timer .t1 off := by
  simp only [route, h0, h1]

theorem route_noWindow {p : Platform} {a : Address} (h0 : windowOffset p.timerBase0 a = none)
    (h1 : windowOffset p.timerBase1 a = none) (i : TimerId) (off : Nat) : route p a ≠ .timer i off := by
  simp only [route, h0, h1]
  split <;> exact Route.noConfusion

theorem windowInside_some {b : Address} (h : windowInside (some b) = true) : b.toNat ≤ 0xFFF0 :=
  of_decide_eq_true h

theorem windowsApart_some {b c : Address} (h : windowsApart (some b) (some c) = true) :
    b.toNat + 15 < c.toNat ∨ c.toNat + 15 < b.toNat :=
  of_decide_eq_true h

/-- R82: what a well-formed platform says of its windows. -/
theorem wellFormed_windows {p : Platform} (h : p.wellFormed = true) :
    (∀ b : Address, p.timerBase0 = some b ∨ p.timerBase1 = some b → b.toNat ≤ 0xFFF0) ∧
    (∀ b c : Address, p.timerBase0 = some b → p.timerBase1 = some c →
      b.toNat + 15 < c.toNat ∨ c.toNat + 15 < b.toNat) := by
  simp only [Platform.wellFormed, Bool.and_eq_true] at h
  obtain ⟨⟨⟨_, h0⟩, h1⟩, hd⟩ := h
  refine ⟨?_, fun b c hb hc => windowsApart_some (by rwa [hb, hc] at hd)⟩
  rintro b (hb | hb)
  · exact windowInside_some (by rwa [hb] at h0)
  · exact windowInside_some (by rwa [hb] at h1)

theorem busRead_timer {s : State} {a : Address} {i : TimerId} {off : Nat} (h : route s.platform a = .timer i off) :
    busRead a s = timerRead i off s := by
  simp only [busRead, h]

theorem busWrite_timer {s : State} {a : Address} {i : TimerId} {off : Nat} (v : Byte)
    (h : route s.platform a = .timer i off) : busWrite a v s = timerWrite i off v s := by
  simp only [busWrite, h]

theorem busRead_device {s : State} {a : Address} (h : route s.platform a = .device) :
    busRead a s = .next (Config.extByte s.ext.choice s.ext.history a, s.record (.read a)) := by
  simp only [busRead, h]

theorem busWrite_device {s : State} {a : Address} (v : Byte) (h : route s.platform a = .device) :
    busWrite a v s = .next (s.record (.write a v)) := by
  simp only [busWrite, h]

/-- Settles O39: the routing by the windows, of which an address lies in at most one, and one bus access per route. -/
theorem addressesAreRouted : Obligations.AddressesAreRouted := by
  unfold Obligations.AddressesAreRouted
  refine ⟨fun p a hp => ?_, fun a v s => ?_⟩
  · obtain ⟨hin, hapart⟩ := wellFormed_windows hp
    refine ⟨fun b hb hl hu => ?_, fun c hc hl hu => ?_, fun hout => ?_, hin, hapart⟩
    · exact route_window0 (by rw [hb, windowOffset_inside hl hu])
    · have h0 : windowOffset p.timerBase0 a = none := windowOffset_outside fun b hb => by
        have := hapart b c hb hc
        omega
      exact route_window1 h0 (by rw [hc, windowOffset_inside hl hu])
    · exact route_noWindow (windowOffset_outside fun b hb => hout b (.inl hb))
        (windowOffset_outside fun b hb => hout b (.inr hb))
  · exact ⟨fun i off h => ⟨busRead_timer h, busWrite_timer v h⟩, fun h => ⟨busRead_device h, busWrite_device v h⟩,
      fun h => ⟨busRead_memory h, busWrite_memory v h⟩⟩

end Sys2Proof.Machine

/-! The statements about 30_encoding.md: the decoder and the encoder read each other's bytes, and the opcodes that have
no instruction are the 105 listed. -/

namespace Sys2Proof.Machine

/-! ### What the decoder reads (R110 to R112) -/

/-- R110: an opcode whose format has no operand is a whole instruction. -/
theorem decode_none {op : Byte} {i : Instr} {rest : List Byte} (h : shapeOf op = some (.none i)) :
    decode (op :: rest) = .ok i rest := by
  simp only [decode, h]

/-- R110: an opcode whose format has one operand byte takes the byte after it. -/
theorem decode_one {op b : Byte} {k : Byte → Instr} {rest : List Byte} (h : shapeOf op = some (.one k)) :
    decode (op :: b :: rest) = .ok (k b) rest := by
  simp only [decode, h]

/-- R112: an opcode whose format has two operand bytes takes the word after it, low byte first. -/
theorem decode_two {op l h : Byte} {k : Address → Instr} {rest : List Byte} (hs : shapeOf op = some (.two k)) :
    decode (op :: l :: h :: rest) = .ok (k (pair h l)) rest := by
  simp only [decode, hs]

/-- R116: an opcode that selects nothing is rejected by name, whatever follows it. -/
theorem decode_illegal {op : Byte} {rest : List Byte} (h : shapeOf op = none) :
    decode (op :: rest) = .illegalOpcode op := by
  simp only [decode, h]

/-- An instruction is decoded in one of three ways only, by the shape of its opcode. -/
theorem decode_ok_cases {bs rest : List Byte} {i : Instr} (h : decode bs = .ok i rest) :
    (∃ op, shapeOf op = some (.none i) ∧ bs = op :: rest) ∨
    (∃ op b k, shapeOf op = some (.one k) ∧ k b = i ∧ bs = op :: b :: rest) ∨
    (∃ op w k, shapeOf op = some (.two k) ∧ k w = i ∧ bs = op :: wordBytes w ++ rest) := by
  cases bs with
  | nil => cases h
  | cons op tail =>
    simp only [decode] at h
    split at h
    · cases h
    · next hs => cases h; exact .inl ⟨op, hs, rfl⟩
    · next k hs =>
      split at h
      · next b _ => cases h; exact .inr (.inl ⟨op, b, k, hs, rfl, rfl⟩)
      · cases h
    · next k hs =>
      split at h
      · next l u _ => cases h; exact .inr (.inr ⟨op, pair u l, k, hs, rfl, by simp [wordBytes]⟩)
      · cases h

/-! ### The round trip (R110 to R113, R207) -/

/-- R111: an encoding has the length of its instruction's format; each constructor has its own row in both tables. -/
theorem encode_length (i : Instr) : (encode i).length = i.format.length := by
  cases i <;> rfl

theorem decode_encode (i : Instr) (rest : List Byte) : decode (encode i ++ rest) = .ok i rest := by
  obtain ⟨op, he, hs⟩ | ⟨op, b, k, he, hs, hk⟩ | ⟨op, w, k, he, hs, hk⟩ := encode_shape i
  · rw [he]; exact decode_none hs
  · rw [he, ← hk]; exact decode_one hs
  · calc decode (encode i ++ rest) = decode (op :: lo w :: hi w :: rest) := by rw [he]; rfl
      _ = .ok (k (pair (hi w) (lo w))) rest := decode_two hs
      _ = .ok i rest := by rw [pair_hi_lo, hk]

theorem encode_decode {bs rest : List Byte} {i : Instr} (h : decode bs = .ok i rest) : bs = encode i ++ rest := by
  obtain ⟨op, hs, hb⟩ | ⟨op, b, k, hs, hk, hb⟩ | ⟨op, w, k, hs, hk, hb⟩ := decode_ok_cases h
  · have he : encode i = [op] := shapeOf_encodes hs
    rw [hb, he]; rfl
  · have he : encode (k b) = [op, b] := shapeOf_encodes hs b
    rw [hb, ← hk, he]; rfl
  · have he : encode (k w) = op :: wordBytes w := shapeOf_encodes hs w
    rw [hb, ← hk, he]

/-- Settles O30: the decoder and the encoder agree on the shape that an opcode selects, both ways. -/
theorem decodeOfEncodeIsTheInstruction : Obligations.DecodeOfEncodeIsTheInstruction := by
  unfold Obligations.DecodeOfEncodeIsTheInstruction
  exact ⟨fun i rest _ => ⟨decode_encode i rest, encode_length i⟩, fun _ _ _ h => encode_decode h⟩

/-! ### The opcodes with no instruction (R116) -/

theorem findShape_eq_none {op : Byte} {l : List OpRow} : findShape op l = none ↔ op ∉ l.map OpRow.opcode := by
  induction l with
  | nil => simp [findShape]
  | cons r rest ih =>
    by_cases h : r.opcode = op
    · simp [findShape, h]
    · simp [findShape, h, ih, Ne.symm h]

set_option maxRecDepth 8000 in
/-- R116, Table 30-2: the opcodes of the table and those of the list are the 256 bytes, each once. -/
theorem opcodes_perm :
    (opTable.map OpRow.opcode ++ illegalOpcodes).Perm ((List.finRange 256).map BitVec.ofFin) := by
  decide

/-- A byte is the opcode of a row of the table, or else one of the listed. -/
theorem opTable_or_illegal (op : Byte) : op ∉ opTable.map OpRow.opcode ↔ op ∈ illegalOpcodes := by
  have hnodup : (opTable.map OpRow.opcode ++ illegalOpcodes).Nodup :=
    opcodes_perm.nodup_iff.mpr ((List.nodup_finRange 256).map fun _ _ => BitVec.ofFin.inj)
  have hmem : op ∈ opTable.map OpRow.opcode ++ illegalOpcodes :=
    opcodes_perm.mem_iff.mpr (List.mem_map.mpr ⟨op.toFin, List.mem_finRange _, rfl⟩)
  exact ⟨(List.mem_append.mp hmem).resolve_left, fun hi ht => List.disjoint_of_nodup_append hnodup ht hi⟩

theorem shapeOf_eq_none (op : Byte) : shapeOf op = none ↔ op ∈ illegalOpcodes :=
  findShape_eq_none.trans (opTable_or_illegal op)

/-- R184: a fetch moves the program counter to the next address. -/
theorem fetch_pc {s : State} {r : Byte × State} (h : fetch s = .next r) : r.2.regs.pc = s.regs.pc + 1 := by
  obtain ⟨q, hq, hk⟩ := andThen_eq_next.mp h
  cases hk
  simp [(quiet_memRead _ _ _ q hq).regs]

/-- R401: after the fetch of an opcode that selects nothing, the raise names the opcode and the address it came from. -/
theorem fetchInstr_illegal {s t : State} {op : Byte} (hf : fetch s = .next (op, t)) (ho : shapeOf op = none) :
    fetchInstr s = raise (.unimplementedOpcode op s.regs.pc) t := by
  have hpc : t.regs.pc - 1 = s.regs.pc := by rw [fetch_pc hf, BitVec.add_sub_cancel]
  rw [fetchInstr, hf, andThen_next, decodeFetched, ho, hpc]

/-- R404: a raise in a block that nothing has faulted is its own error. -/
theorem raise_running {τ : Type} (e : Fault) {s : State} (h : s.fault = none) :
    (raise e s : Host.Outcome τ Fault Refusal) = .fault e := by
  rw [raise, h]; rfl

/-- R182: the step of a block that is not faulted. -/
theorem step_running {s : State} (h : s.fault = none) :
    step s = andThen (fetchInstr (beginInstr s)) fun r => andThen (exec r.1 r.2) complete := by
  rw [step, h]

/-- Settles O31: an opcode has no instruction when no row has it, which is a matter of the 256 opcode bytes; the decoder
and the fetch both reject it by name. -/
theorem illegalOpcodesAreExactlyTheListed : Obligations.IllegalOpcodesAreExactlyTheListed := by
  unfold Obligations.IllegalOpcodesAreExactlyTheListed
  refine ⟨shapeOf_eq_none, fun op rest h => decode_illegal ((shapeOf_eq_none op).mpr h), fun s t op hs ho hf ht => ?_⟩
  rw [step_running hs, fetchInstr_illegal hf ((shapeOf_eq_none op).mpr ho), andThen_raise, raise_running _ ht,
    beginInstr_regs]

/-! ### Words of Table 30-2 -/

set_option maxRecDepth 4000 in
/-- Settles O32: each opcode byte selects its row, and the operand is what the row's format reads. -/
theorem encodedWordsDecode : Obligations.EncodedWordsDecode := by
  unfold Obligations.EncodedWordsDecode
  exact ⟨decode_one (k := .ldaImm) rfl, decode_two (k := .staAbs) rfl, decode_none rfl, decode_one (k := .adcIzy) rfl,
    decode_two (k := .rolAbx) rfl, decode_none rfl, decode_one (k := .bne) rfl, decode_two (k := .jmpInd) rfl,
    decode_none rfl, decode_one (k := .ldxZpy) rfl⟩

end Sys2Proof.Machine

/-! The statements about 40_register_ops_addressing.md: the effective address of every mode, and a pull after a push. -/

namespace Sys2Proof.Machine

/-! ### The effective address (R153 to R162) -/

/-- R165: a word is what its two reads answer, the low byte's and, from the state it leaves, the high byte's. -/
theorem memRead16_next {a b : Address} {l h : Byte} {s t u : State} (hl : memRead .read a s = .next (l, t))
    (hh : memRead .read b t = .next (h, u)) : memRead16 a b s = .next (pair h l, u) := by
  rw [memRead16, hl, andThen_next, hh, andThen_next]

/-- R157: (zp,X) is a pointer of zero page, with the index added before the indirection. -/
theorem resolve_izx {z : Byte} {w : Address} {s t : State} (h : zpPointer (z + s.regs.x) s = .next (w, t)) :
    resolve (.izx z) s = .next (⟨w, false⟩, t) := by
  rw [resolve, h, andThen_next]

/-- R158: (zp),Y is a pointer of zero page, with the index added after the indirection; the pointer reads leave Y. -/
theorem resolve_izy {z : Byte} {w : Address} {s t : State} (h : zpPointer z s = .next (w, t)) :
    resolve (.izy z) s = .next (indexed w s.regs.y, t) := by
  have hq : Quiet s t := quiet_memRead16 _ _ s (w, t) h
  rw [resolve, h, andThen_next, hq.regs]

/-- A pointer in plain memory is the word that memory holds. -/
theorem zpPointer_memory {z : Byte} {s : State} (hl : route s.platform (zext16 z) = .memory)
    (hh : route s.platform (zext16 (z + 1)) = .memory) :
    ∃ t, zpPointer z s = .next (pair (readByte s.mem (zext16 (z + 1)).toNat) (readByte s.mem (zext16 z).toNat), t) :=
  ⟨_, memRead16_memory hl hh⟩

/-- The modes without a pointer are settled by the registers alone; the two with one, by the word that memory holds. -/
theorem resolve_plain {m : EaMode} {s : State} (h : PointersPlain s m) :
    ∃ t, resolve m s = .next (⟨plainEa s m, plainCrossed s m⟩, t) := by
  cases m with
  | izx z => exact (zpPointer_memory h.1 h.2).imp fun _ => resolve_izx
  | izy z => exact (zpPointer_memory h.1 h.2).imp fun _ => resolve_izy
  | zp z | zpx z | zpy z | abs w | abx w | aby w => exact ⟨s, rfl⟩

/-- Settles O21: the resolver's own clauses, the two pointers by their reads, and the plain address of every mode. -/
theorem addressingModesResolve : Obligations.AddressingModesResolve := by
  unfold Obligations.AddressingModesResolve
  refine ⟨fun z w s => ⟨rfl, rfl, rfl, rfl, rfl, rfl, fun l t h u hl hh => ?_, fun l t h u hl hh => ?_⟩,
    fun m s h => ?_⟩
  · exact resolve_izx (memRead16_next hl hh)
  · exact resolve_izy (memRead16_next hl hh)
  · obtain ⟨t, ht⟩ := resolve_plain h
    exact ⟨t, ht, quiet_resolve m s _ ht⟩

/-! ### Pull after push (R143 to R146) -/

theorem push_pushed {v : Byte} {s t : State} (hs : StackPlain 1 s) (h : push v s = .next t) :
    Quiet (pushed v s) t := by
  obtain ⟨u, hu, q⟩ := push_plain v hs.1
  cases hu.symm.trans h
  exact q

theorem push16_pushed {w : Address} {s t : State} (hs : StackPlain 2 s) (h : push16 w s = .next t) :
    Quiet (pushed (lo w) (pushed (hi w) s)) t := by
  obtain ⟨u, hu, q⟩ := push16_plain w hs
  cases hu.symm.trans h
  exact q

/-- R143, R144: the stack pointer that a pull leaves after a push is the one before the push, modulo 256. -/
theorem pushed_sp_add_one (v : Byte) (s : State) : (pushed v s).regs.sp + 1 = s.regs.sp :=
  BitVec.sub_add_cancel _ _

theorem pushed_pushed_sp_add_two (v x : Byte) (s : State) : (pushed x (pushed v s)).regs.sp + 2 = s.regs.sp := by
  show s.regs.sp - 1 - 1 + 2 = s.regs.sp
  rw [sub_one_sub_one, BitVec.sub_add_cancel]

/-- In a canonical memory the byte pushed is at the stack pointer from before the push. -/
theorem readByte_pushed_same {s : State} (v : Byte) (h : Memory.wf s.mem = true) :
    readByte (pushed v s).mem (stackAddr s.regs.sp).toNat = v :=
  readByte_writeByte_same h _ v

theorem readByte_pushed_other {s : State} (v p : Byte) (h : p ≠ s.regs.sp) :
    readByte (pushed v s).mem (stackAddr p).toNat = readByte s.mem (stackAddr p).toNat :=
  readByte_writeByte_other v (stackAddr_toNat_ne h) s.mem

/-- R143, R144: a pull after a push to plain memory. -/
theorem pop_push {v : Byte} {s t : State} (hm : Memory.wf s.mem = true) (hs : StackPlain 1 s)
    (h : push v s = .next t) : ∃ u, pop t = .next (v, u) ∧ u.regs = s.regs ∧ u.mem = t.mem := by
  have q := push_pushed hs h
  have hsp : t.regs.sp + 1 = s.regs.sp := by rw [q.regs, pushed_sp_add_one]
  have hr : route t.platform (stackAddr (t.regs.sp + 1)) = .memory := by rw [hsp, q.platform]; exact hs.1
  obtain ⟨u, hu⟩ := pop_plain hr
  have qu := quiet_pop _ hu
  rw [hsp, q.mem, readByte_pushed_same v hm] at hu
  refine ⟨u, hu, ?_, qu.mem⟩
  rw [qu.regs, setSp_regs, hsp, q.regs]
  rfl

/-- R145, R146: a pull of a word after a push of a word to plain memory. The byte pushed last does not reach the one
pushed first, since their stack pointers differ by one, modulo 256. -/
theorem pop16_push16 {w : Address} {s t : State} (hm : Memory.wf s.mem = true) (hs : StackPlain 2 s)
    (h : push16 w s = .next t) : ∃ u, pop16 t = .next (w, u) ∧ u.regs = s.regs ∧ u.mem = t.mem := by
  have q := push16_pushed hs h
  have hsp1 : t.regs.sp + 1 = s.regs.sp - 1 := by rw [q.regs, pushed_sp_add_one]; rfl
  have hsp2 : t.regs.sp + 2 = s.regs.sp := by rw [q.regs, pushed_pushed_sp_add_two]
  have hr1 : route t.platform (stackAddr (t.regs.sp + 1)) = .memory := by rw [hsp1, q.platform]; exact hs.2.1
  have hr2 : route t.platform (stackAddr (t.regs.sp + 2)) = .memory := by rw [hsp2, q.platform]; exact hs.1
  have hlo : readByte t.mem (stackAddr (s.regs.sp - 1)).toNat = lo w := by
    rw [q.mem]
    exact readByte_pushed_same (s := pushed (hi w) s) (lo w) (wf_writeByte hm _ _)
  have hhi : readByte t.mem (stackAddr s.regs.sp).toNat = hi w := by
    rw [q.mem, readByte_pushed_other (lo w) s.regs.sp (stack_apart s.regs.sp).1, readByte_pushed_same (hi w) hm]
  obtain ⟨u, hu⟩ := pop16_plain hr1 hr2
  rw [hsp1, hsp2, hlo, hhi, pair_hi_lo] at hu
  have qu := pop16_quiet hu
  refine ⟨u, hu, ?_, qu.mem⟩
  rw [qu.regs, setSp_regs, hsp2, q.regs]
  rfl

/-- Settles O40: a pull after a push, for a byte and for a word. -/
theorem pushAndPopAreInverse : Obligations.PushAndPopAreInverse := by
  unfold Obligations.PushAndPopAreInverse
  exact ⟨fun v s t => pop_push, fun w s t => pop16_push16⟩

end Sys2Proof.Machine

/-! The statements about 41_execution_and_scheduler.md: what an instruction charges, the passing of time, the order of a
step, the total and the triggers, and a block that is faulted. -/

namespace Sys2Proof.Machine

/-! ### The gated accesses (R186, R187, R209) -/

/-- R187: the page-crossing cycle is due to an opcode that pays it and an index that crosses. -/
theorem crossing_eq (t : Timing) (crossed : Bool) :
    t.crossing crossed = if t.penalty = true ∧ crossed = true then 1 else 0 := by
  unfold Timing.crossing
  cases t.penalty <;> cases crossed <;> rfl

/-- A gated read of plain memory yields its byte. -/
theorem gatedRead_plain (t : Timing) {r : Resolved} {s : State} (h : route s.platform r.ea = .memory) :
    ∃ u, gatedRead t r s = .next (readByte s.mem r.ea.toNat, u) ∧ Quiet s u := by
  have h' : route (advance (t.readSub + t.crossing r.crossed) s).platform r.ea = .memory := by
    rw [advance_platform]
    exact h
  have hr := memRead_memory .read h'
  rw [advance_mem] at hr
  exact ⟨_, hr, quiet_gatedRead t r s _ hr⟩

/-- The pointer reads of the mode move neither its address nor the byte there. -/
theorem load_plain (t : Timing) {m : EaMode} {s : State} (hm : PointersPlain s m)
    (hr : route s.platform (plainEa s m) = .memory) :
    ∃ u, load t (.byte m) s = .next (readByte s.mem (plainEa s m).toNat, u) ∧ Quiet s u := by
  obtain ⟨x, hx⟩ := resolve_plain hm
  have qx : Quiet s x := quiet_resolve m s _ hx
  rw [← qx.platform] at hr
  obtain ⟨u, hu, qu⟩ := gatedRead_plain t (r := ⟨plainEa s m, plainCrossed s m⟩) hr
  refine ⟨u, ?_, qx.trans qu⟩
  rw [load, hx, andThen_next, hu, qx.mem]

/-- Settles O22: the two gated accesses as they are defined, and the load of plain memory by the address of its mode. -/
theorem operandsOfPlainMemoryAreItsBytes : Obligations.OperandsOfPlainMemoryAreItsBytes := by
  unfold Obligations.OperandsOfPlainMemoryAreItsBytes
  refine fun t s => ⟨fun r => ?_, fun a v => rfl, fun m => rfl, fun b => rfl, fun m => load_plain t⟩
  rw [gatedRead, crossing_eq]

/-! ### The cycles of an instruction (R189) -/

/-- `c` is what an operand adds to the base cycles of its opcode: the page-crossing cycle (R187) of an operand in
memory, and nothing for any other. -/
def AddsCycles (t : Timing) (o : Option Operand) (s : State) (c : Nat) : Prop :=
  (o = none → c = 0) ∧ (∀ b, o = some (.imm b) → c = 0) ∧
  (∀ m r x, o = some (.byte m) → resolve m s = .next (r, x) →
    c = if t.penalty = true ∧ r.crossed = true then 1 else 0)

theorem addsCycles_none (t : Timing) (s : State) : AddsCycles t none s 0 :=
  ⟨fun _ => rfl, fun _ _ => rfl, fun _ _ _ h => by cases h⟩

theorem addsCycles_imm (t : Timing) (b : Byte) (s : State) : AddsCycles t (some (.imm b)) s 0 :=
  ⟨fun _ => rfl, fun _ _ => rfl, fun _ _ _ h => by cases h⟩

/-- An opcode without the penalty pays nothing for its index, whatever the mode resolves to. -/
theorem addsCycles_noPenalty {t : Timing} (h : t.penalty = false) (o : Option Operand) (s : State) :
    AddsCycles t o s 0 :=
  ⟨fun _ => rfl, fun _ _ => rfl, fun _ _ _ _ _ => by simp [h]⟩

theorem addsCycles_byte {t : Timing} {m : EaMode} {s x : State} {r : Resolved} (h : resolve m s = .next (r, x)) :
    AddsCycles t (some (.byte m)) s (t.crossing r.crossed) := by
  refine ⟨nofun, nofun, fun m' r' x' he hr' => ?_⟩
  cases he
  cases h.symm.trans hr'
  exact crossing_eq t r.crossed

/-- An immediate has no access, and Table 41-1 no sub-cost for it. -/
theorem readSub_of_imm (i : Instr) : ∀ o, operandOf i = some o → ∀ b, o = .imm b → (timingOf i).readSub = 0 := by
  cases i <;> rintro o ⟨⟩ b ⟨⟩ <;> rfl

theorem costs_load {t : Timing} {o : Operand} (hi : ∀ b, o = .imm b → t.readSub = 0) {s : State} {r : Byte × State}
    (h : load t o s = .next r) : ∃ c, AddsCycles t (some o) s c ∧ Costs (t.readSub + c) s r.2 := by
  cases o with
  | imm b =>
    cases h
    refine ⟨0, addsCycles_imm t b s, ?_⟩
    rw [hi b rfl]
    exact Costs.refl s
  | byte m =>
    obtain ⟨q, hq, hg⟩ := andThen_eq_next.mp h
    have hc := (costs_resolve hq).trans (costs_gatedRead hg)
    rw [Nat.zero_add] at hc
    exact ⟨t.crossing q.1.crossed, addsCycles_byte hq, hc⟩

theorem costs_branch (cond : Bool) (d : Byte) (s : State) : Costs 0 s (branch cond d s) := by
  cases cond
  · exact Costs.refl s
  · exact ⟨rfl, fun _ => ⟨rfl, rfl⟩, fun _ => ⟨rfl, rfl⟩⟩

/-- R188: the remainder brings what the accesses have charged up to the base and `BranchExtra`. -/
theorem costs_through_finish {t : Timing} {c : Nat} {s x u : State} (hfit : t.readSub + t.writeSub ≤ t.base)
    (hx : Costs (t.readSub + t.writeSub + c) s x) (h : finish t x = .next u) :
    Costs (t.base + c + u.sched.branch) s u := by
  obtain ⟨hc, hb⟩ := costs_finish h
  have he : t.readSub + t.writeSub + c + t.remainder x = t.base + c + u.sched.branch := by
    rw [Timing.remainder, hb]
    omega
  rw [← he]
  exact hx.trans hc

/-- A meaning that loads its operand and then changes registers only. -/
theorem charges_of_load {t : Timing} {o : Operand} {s x u : State} {r : Byte × State}
    (hfit : t.readSub + t.writeSub ≤ t.base) (hi : ∀ b, o = .imm b → t.readSub = 0) (hw : t.writeSub = 0)
    (hr : load t o s = .next r) (hx : x.sched = r.2.sched) (hf : finish t x = .next u) :
    ∃ c, AddsCycles t (some o) s c ∧ Costs (t.base + c + u.sched.branch) s u := by
  obtain ⟨c, ha, hc⟩ := costs_load hi hr
  refine ⟨c, ha, costs_through_finish hfit ?_ hf⟩
  rw [hw]
  exact hc.then_sched hx

/-- A meaning without an operand, whose own effects charge nothing but waits. -/
theorem charges_of_none {t : Timing} {s x u : State} (hfit : t.readSub + t.writeSub ≤ t.base) (hr : t.readSub = 0)
    (hw : t.writeSub = 0) (hx : Costs 0 s x) (hf : finish t x = .next u) :
    ∃ c, AddsCycles t none s c ∧ Costs (t.base + c + u.sched.branch) s u := by
  refine ⟨0, addsCycles_none t s, costs_through_finish hfit ?_ hf⟩
  rw [hr, hw]
  exact hx

/-- R189: what an instruction charges besides its waits, by the shape of its meaning: the sub-costs of the accesses
that the shape makes, the page-crossing cycle of the operand it loads, and the remainder. -/
theorem exec_charges {i : Instr} {s u : State} (h : exec i s = .next u) :
    ∃ c, AddsCycles (timingOf i) (operandOf i) s c ∧ Costs ((timingOf i).base + c + u.sched.branch) s u := by
  rw [exec_eq] at h
  have hfit := timingOf_fits i
  have hagrees := meaningOf_agrees i
  have himm := readSub_of_imm i
  have harith := arith_opcode i
  have hplain := fun f hf => @costs_plain i f hf s
  generalize meaningOf i = w at h hagrees harith hplain
  generalize timingOf i = t at *
  cases w with
  | read o f =>
    obtain ⟨ho, hw⟩ := hagrees
    obtain ⟨r, hr, hf⟩ := andThen_eq_next.mp h
    rw [ho]
    exact charges_of_load hfit (himm o ho) hw hr (x := { r.2 with regs := f r.1 r.2.regs }) rfl hf
  | arith o f =>
    obtain ⟨ho, hw⟩ := hagrees
    obtain ⟨r, hr, h2⟩ := andThen_eq_next.mp h
    obtain ⟨x, hx, hf⟩ := andThen_eq_next.mp h2
    have hs : x.sched = r.2.sched := by
      obtain ⟨op, _, e | e⟩ := harith o f rfl <;> subst e
      · rw [adc_next hx]
      · rw [sbc_next hx]
    rw [ho]
    exact charges_of_load hfit (himm o ho) hw hr hs hf
  | write m f =>
    obtain ⟨_, hr0, hp⟩ := hagrees
    obtain ⟨r, hr, h2⟩ := andThen_eq_next.mp h
    obtain ⟨x, hx, hf⟩ := andThen_eq_next.mp h2
    refine ⟨0, addsCycles_noPenalty hp _ s, costs_through_finish hfit ?_ hf⟩
    rw [hr0]
    exact (costs_resolve hr).trans (costs_gatedWrite hx)
  | modify m f =>
    obtain ⟨_, hp⟩ := hagrees
    obtain ⟨r, hr, h2⟩ := andThen_eq_next.mp h
    obtain ⟨q, hq, h3⟩ := andThen_eq_next.mp h2
    obtain ⟨x, hx, hf⟩ := andThen_eq_next.mp h3
    have hc := ((costs_resolve hr).trans (costs_gatedRead hq)).trans (costs_gatedWrite hx)
    rw [Timing.crossing, hp, Bool.false_and, Bool.toNat_false, Nat.add_zero, Nat.zero_add] at hc
    refine ⟨0, addsCycles_noPenalty hp _ s, costs_through_finish hfit ?_ hf⟩
    exact hc.then_sched rfl
  | regs f =>
    obtain ⟨ho, hr0, hw0⟩ := hagrees
    rw [ho]
    exact charges_of_none hfit hr0 hw0 (x := { s with regs := f s.regs }) (Costs.of_sched rfl) h
  | branch d c =>
    obtain ⟨ho, hr0, hw0⟩ := hagrees
    rw [ho]
    exact charges_of_none hfit hr0 hw0 (costs_branch _ d s) h
  | plain f =>
    obtain ⟨ho, hr0, hw0⟩ := hagrees
    obtain ⟨x, hx, hf⟩ := andThen_eq_next.mp h
    rw [ho]
    exact charges_of_none hfit hr0 hw0 (hplain f rfl x hx) hf

/-- Settles O23: the charge of every shape of meaning, which outside an entry is made to `InstrCycles`. -/
theorem instructionCost : Obligations.InstructionCost := by
  unfold Obligations.InstructionCost
  intro i s u he h
  obtain ⟨c, ha, hc⟩ := exec_charges h
  have hcost := hc.cost he
  exact ⟨c, by omega, ha⟩

/-! ### Time (R196, R197, R470) -/

/-- R52, R196: a countdown that is `IDLE` stays so; any other goes down. -/
theorem countDown_eq_map (n : Nat) (k : Option Int) : countDown n k = k.map fun k => k - (n : Int) := by
  cases k <;> rfl

/-- R196: the order of an advance that is not of 0. -/
theorem advance_pos {n : Nat} (h : 0 < n) (s : State) :
    advance n s = extAdvance n (timerAdvance .t1 n (timerAdvance .t0 n (chargeTime n s))) :=
  if_neg (Nat.pos_iff_ne_zero.mp h)

theorem withRegsMem_advance (r : Regs) (m : List Host.Cell) (n : Nat) (s : State) :
    advance n (withRegsMem r m s) = withRegsMem r m (advance n s) := by
  obtain rfl | h := n.eq_zero_or_pos
  · rfl
  · have hc : chargeTime n (withRegsMem r m s) = withRegsMem r m (chargeTime n s) := rfl
    rw [advance_pos h, advance_pos h, hc, withRegsMem_timerAdvance, withRegsMem_timerAdvance, withRegsMem_extAdvance]

theorem extRespond_nil {s : State} (h : s.ext.script = []) : extRespond s = s := by
  simp only [extRespond, h]

theorem extRespond_cons {s : State} {now : List ExtEvent} {later : List (List ExtEvent)}
    (h : s.ext.script = now :: later) :
    extRespond s = extEvents now { s with ext := { s.ext with script := later } } := by
  simp only [extRespond, h]

/-- Settles O41: the order of an advance by its definition, with the clock's own part written out. -/
theorem advanceMovesTime : Obligations.AdvanceMovesTime := by
  unfold Obligations.AdvanceMovesTime
  refine fun s => ⟨rfl, fun n hn => ⟨?_, quiet_advance n s, fun r m => withRegsMem_advance r m n s, fun i t => rfl,
    fun t => ⟨fun h => ?_, fun now later h => ?_⟩⟩⟩
  · rw [advance_pos hn, chargeTime, countDown_eq_map]
    rfl
  · exact extRespond_nil (s := t.record (.advanced n)) h
  · exact extRespond_cons (s := t.record (.advanced n)) h

/-! ### The total and the triggers (R199 to R204) -/

/-- R201: a wrap takes the same number from every timestamp, and leaves `NEVER`. -/
theorem rebase_eq_map (w : Nat) : rebase w = Option.map fun t : Int => t - (w : Int) := by
  funext t
  cases t <;> rfl

theorem addTotal_within {n : Nat} {s : State} (h : s.sched.total + n ≤ s.platform.cycleWrap) :
    addTotal n s = { s with sched := { s.sched with total := s.sched.total + n } } :=
  if_neg (Nat.not_lt.mpr h)

theorem addTotal_wraps {n : Nat} {s : State} (h : s.platform.cycleWrap < s.sched.total + n) :
    addTotal n s =
      State.record (.wrapped s.platform.cycleWrap)
        { s with
          sched := { s.sched with total := s.sched.total + n - s.platform.cycleWrap }
          ext := { s.ext with triggers := s.ext.triggers.map (rebase s.platform.cycleWrap) } } :=
  if_pos h

/-- R200: one wrap is enough for an increase that is itself within the threshold. -/
theorem addTotal_total_le {n : Nat} {s : State} (ht : s.sched.total ≤ s.platform.cycleWrap)
    (hn : n ≤ s.platform.cycleWrap) : (addTotal n s).sched.total ≤ s.platform.cycleWrap := by
  obtain h | h := Nat.lt_or_ge s.platform.cycleWrap (s.sched.total + n)
  · rw [addTotal_wraps h]
    show s.sched.total + n - s.platform.cycleWrap ≤ s.platform.cycleWrap
    omega
  · rw [addTotal_within h]
    exact h

/-- Settles O42: the increase on either side of the threshold. -/
theorem totalCyclesWrap : Obligations.TotalCyclesWrap := by
  unfold Obligations.TotalCyclesWrap
  refine fun n s => ⟨addTotal_within, fun h => ?_, addTotal_total_le⟩
  rw [addTotal_wraps h, rebase_eq_map]
  rfl

/-- R404: in a block that is not faulted a call is its own. -/
theorem guarded_running {α : Type} {s : State} (h : s.fault = none) (c : Call α) : guarded s c = c := by
  simp only [guarded, h]

/-- R181, R404: in a faulted block every call is the fault. -/
theorem guarded_faulted {α : Type} {s : State} {e : Fault} (h : s.fault = some e) (c : Call α) :
    guarded s c = ⟨.err e, s⟩ := by
  simp only [guarded, h]

/-- Settles O43: the primitives of a block that is not faulted, and `triggerDue` by the two forms of a trigger. -/
theorem triggersAreTimestamps : Obligations.TriggersAreTimestamps := by
  unfold Obligations.TriggersAreTimestamps
  intro d t s h
  exact ⟨guarded_running h _, guarded_running h _, guarded_running h _, guarded_running h _, decide_eq_true_iff, rfl⟩

/-! ### The order of a step (R182 to R185) -/

/-- R404: a step that stops with a fault leaves `executeOne` that answer, and a faulted block. -/
theorem step_executeOne_fault {s : State} {e : Fault} (left : State) (hs : s.fault = none) (h : step s = .fault e) :
    step s = .fault e ∧ executeOne left s = ⟨.err e, { left with fault := some e }⟩ := by
  refine ⟨h, ?_⟩
  rw [executeOne, guarded_running hs, h]
  rfl

theorem executeOne_next {s x : State} (hs : s.fault = none) (h : step s = .next x) (left : State) :
    executeOne left s = ⟨.ok (chargedCycles x), x⟩ := by
  rw [executeOne, guarded_running hs, h]

theorem step_of_fetchInstr {s t : State} {i : Instr} (hs : s.fault = none)
    (h : fetchInstr (beginInstr s) = .next (i, t)) : step s = andThen (exec i t) complete := by
  rw [step_running hs, h, andThen_next]

/-- R404: what the boundary leaves is answered where the block is not faulted, and its fault where it is. -/
theorem complete_of_boundary {u x : State} (h : interruptBoundary (addTotal u.sched.instr u) = .next x) :
    complete u = settle x := by
  rw [complete, h, andThen_next]

theorem settle_faulted {x : State} {e : Fault} (h : x.fault = some e) : settle x = .fault e := by
  simp only [settle, h]

theorem settle_running {x : State} (h : x.fault = none) : settle x = .next x := by
  simp only [settle, h]

@[simp] theorem markDue_sched (s : State) : (markDue s).sched = s.sched := by
  unfold markDue
  split <;> rfl

theorem endEntry_instr (s : State) : (endEntry s).sched.instr = s.sched.instr := by
  obtain ⟨_, _, _, _, _, _, _, hinstr, _⟩ := addTotal_same s.sched.entry s
  exact hinstr

/-- R415: an entry charges its cycles to `EntryCycles`, and none to the instruction before it. -/
theorem irqEntry_instr {s t : State} (h : irqEntry s = .next t) : t.sched.instr = s.sched.instr := by
  obtain ⟨u, hu, rfl⟩ := irqEntry_cases h
  have hc := (costs_takeException hu).trans (costs_advance irqEntryCycles u)
  rw [endEntry_instr, (hc.inside rfl).2]
  rfl

/-- R182: what the end of an instruction leaves of its accumulators: `InstrCycles` as it was, and `EntryCycles` too
where the boundary takes no entry. -/
theorem complete_sched {u x : State} (h : complete u = .next x) :
    x.sched.instr = u.sched.instr ∧
    (serviceCondition (markDue (addTotal u.sched.instr u)) = false ∨ u.irq.status = 0 →
      x.sched.entry = u.sched.entry) := by
  obtain ⟨_, hirq, _, _, _, _, _, hinstr, _, hentry⟩ := addTotal_same u.sched.instr u
  obtain ⟨-, rfl | ⟨hstatus, rfl | ⟨hserved, hx⟩⟩⟩ := complete_cases h
  · exact ⟨hinstr, fun _ => hentry⟩
  · rw [markDue_sched]
    exact ⟨hinstr, fun _ => hentry⟩
  · refine ⟨by rw [irqEntry_instr hx, markDue_sched, hinstr], ?_⟩
    rintro (hnot | hzero)
    · rw [hserved] at hnot
      cases hnot
    · rw [hirq] at hstatus
      exact absurd hzero hstatus

/-- R183, R196: no cycle of the fetch or of the instruction is charged to an entry. -/
theorem exec_entry_zero {s t u : State} {i : Instr} (hf : fetchInstr (beginInstr s) = .next (i, t))
    (hu : exec i t = .next u) : u.sched.entry = 0 := by
  obtain ⟨n, hc⟩ := costs_exec hu
  have h := (fetchInstr_costs hf).1.trans hc
  exact (h.outside rfl).2

/-- The state after `k` fetches from plain memory that do not wait: PC past the bytes, and the reads told in order. -/
def fetched (k : Nat) (s : State) : State :=
  { s with
    regs := { s.regs with pc := s.regs.pc + BitVec.ofNat 16 k }
    ext := { s.ext with
      history := ((List.range k).reverse.map fun j => ExtRecord.read (s.regs.pc + BitVec.ofNat 16 j)) ++
        s.ext.history } }

theorem fetched_zero (s : State) : fetched 0 s = s := by
  have h : s.regs.pc + BitVec.ofNat 16 0 = s.regs.pc := BitVec.add_zero _
  rw [fetched, h]
  rfl

/-- The address after `k` bytes, one more. -/
theorem add_ofNat_succ (a : Address) (k : Nat) : a + BitVec.ofNat 16 k + 1 = a + BitVec.ofNat 16 (k + 1) := by
  rw [BitVec.add_assoc, BitVec.ofNat_add]
  rfl

/-- The `k`-th address from PC is plain memory, and a fetch there does not wait. -/
def FetchPlain (s : State) (k : Nat) : Prop :=
  route s.platform (s.regs.pc + BitVec.ofNat 16 k) = .memory ∧
  waitIn (s.regs.pc + BitVec.ofNat 16 k) .fetch s.platform.ioWait = 0

theorem fetch_fetched {s : State} {k : Nat} (h : FetchPlain s k) :
    fetch (fetched k s) = .next (readByte s.mem (s.regs.pc + BitVec.ofNat 16 k).toNat, fetched (k + 1) s) := by
  have hf := fetch_plain (s := fetched k s) h.1 h.2
  have hnext : ((fetched k s).record (.read (fetched k s).regs.pc)).setPc ((fetched k s).regs.pc + 1) =
      fetched (k + 1) s := by
    simp only [fetched, State.record, State.setPc, add_ofNat_succ, List.range_succ, List.reverse_append,
      List.reverse_singleton, List.nil_append, List.map_cons, List.cons_append]
  rw [hf, hnext]
  rfl

/-- R112: the bytes that are fetched are those that the decoder reads, as many as the format has. -/
theorem fetchInstr_plain {s : State} {i : Instr} {rest : List Byte} (h : ∀ k < 3, FetchPlain s k)
    (hd : decode [readByte s.mem s.regs.pc.toNat, readByte s.mem (s.regs.pc + 1).toNat,
      readByte s.mem (s.regs.pc + 2).toNat] = .ok i rest) :
    fetchInstr s = .next (i, fetched i.format.length s) := by
  have h0 : fetch s = .next (readByte s.mem s.regs.pc.toNat, fetched 1 s) := by
    have hf := fetch_fetched (h 0 (by decide))
    have hz : s.regs.pc + BitVec.ofNat 16 0 = s.regs.pc := BitVec.add_zero _
    rwa [fetched_zero, hz] at hf
  have h1 : fetch (fetched 1 s) = .next (readByte s.mem (s.regs.pc + 1).toNat, fetched 2 s) :=
    fetch_fetched (h 1 (by decide))
  have h2 : fetch (fetched 2 s) = .next (readByte s.mem (s.regs.pc + 2).toNat, fetched 3 s) :=
    fetch_fetched (h 2 (by decide))
  rw [fetchInstr, h0, andThen_next, decodeFetched, ← encode_length]
  obtain ⟨op, hs, hb⟩ | ⟨op, b, k, hs, rfl, hb⟩ | ⟨op, w, k, hs, rfl, hb⟩ := decode_ok_cases hd
  · have he : encode i = [op] := shapeOf_encodes hs
    simp only [List.cons.injEq] at hb
    rw [hb.1, hs, he]
    rfl
  · have he : encode (k b) = [op, b] := shapeOf_encodes hs b
    simp only [List.cons.injEq] at hb
    obtain ⟨hop, hb1, -⟩ := hb
    rw [hop, hs, he]
    simp only [fetchOperands, h1, andThen_next, hb1]
    rfl
  · have he : encode (k w) = op :: wordBytes w := shapeOf_encodes hs w
    simp only [wordBytes, List.cons_append, List.nil_append, List.cons.injEq] at hb
    obtain ⟨hop, hlo, hhi, -⟩ := hb
    rw [hop, hs, he]
    simp only [fetchOperands, h1, h2, andThen_next, hlo, hhi, pair_hi_lo]
    rfl

/-- Settles O33: the parts of a step in their order, the answer of `executeOne` to each of its ends, and the bytes that
the fetch takes from plain memory. -/
theorem stepRunsTheDecodedInstruction : Obligations.StepRunsTheDecodedInstruction := by
  unfold Obligations.StepRunsTheDecodedInstruction
  refine ⟨fun s => rfl, fun s left e hs hf => ?_, fun s t left i hs hf => ?_, fun s i rest hs hp hd => ?_⟩
  · exact step_executeOne_fault left hs (by rw [step_running hs, hf, andThen_fault])
  · have hstep := step_of_fetchInstr hs hf
    refine ⟨hstep, fun e hu => ?_, fun u e hu hb => ?_, fun u x e hu hb hx => ?_, fun u x hu hb hx => ?_⟩
    · exact step_executeOne_fault left hs (by rw [hstep, hu, andThen_fault])
    · exact step_executeOne_fault left hs (by rw [hstep, hu, andThen_next, complete, hb, andThen_fault])
    · exact step_executeOne_fault left hs (by rw [hstep, hu, andThen_next, complete_of_boundary hb, settle_faulted hx])
    · have hc : complete u = .next x := by rw [complete_of_boundary hb, settle_running hx]
      obtain ⟨hinstr, hentry⟩ := complete_sched hc
      have hnext : step s = .next x := by rw [hstep, hu, andThen_next, hc]
      refine ⟨hnext, ?_, fun hno => (hentry hno).trans (exec_entry_zero hf hu)⟩
      rw [executeOne_next hs hnext, chargedCycles, hinstr]
  · exact fetchInstr_plain (s := beginInstr s) hp hd

/-! ### A faulted block (R181, R404) -/

theorem step_faulted {s : State} {e : Fault} (h : s.fault = some e) : step s = .fault e := by
  simp only [step, h]

/-- R511: after the timers are reset, every read of the bus answers. -/
theorem supported_resetLines (s : State) : Supported (resetLines s) := by
  have h : viaAfterReset.supported = true := by decide
  exact ⟨h, h⟩

/-- R510: reset answers, with the fault gone; its two vector reads bring none back. -/
theorem resetPort_running (s : State) : ∃ t, resetPort s = .next t ∧ t.fault = none := by
  obtain ⟨l, hl⟩ := busRead_answers (supported_resetLines s) resetVector
  obtain ⟨h, hh⟩ := busRead_answers ((supported_resetLines s).quiet (quiet_busRead _ _ l hl)) (resetVector + 1)
  have hk := (readKeeps_busRead hl).trans (readKeeps_busRead hh)
  refine ⟨h.2.setPc (pair h.1 l.1), ?_, hk.fault⟩
  rw [resetPort, hl, andThen_next, hh, andThen_next]

/-- Settles O34: every interface is guarded by the fault, and reset clears it. -/
theorem faultedBlockStaysFaulted : Obligations.FaultedBlockStaysFaulted := by
  unfold Obligations.FaultedBlockStaysFaulted
  intro s left e h
  exact ⟨step_faulted h, guarded_faulted h _, fun id => ⟨guarded_faulted h _, guarded_faulted h _⟩,
    guarded_faulted h _, guarded_faulted h _, guarded_faulted h _,
    fun d t => ⟨guarded_faulted h _, guarded_faulted h _⟩,
    fun n off v => ⟨guarded_faulted h _, guarded_faulted h _⟩, resetPort_running s⟩

end Sys2Proof.Machine

/-! The statements about 42_load_store_transfer.md: the loads, the stores and the transfers, each from the shape of
its meaning. -/

namespace Sys2Proof.Machine

/-! ### The forms of a mnemonic (R113) -/

/-- The mnemonic of the instructions of a shape, whatever their operand. -/
def shapeMnemonic : Shape → Mnemonic
  | .none i => i.mnemonic
  | .one k => (k 0).mnemonic
  | .two k => (k 0).mnemonic

/-- The opcode and the format of every instruction stand in the list of its mnemonic; each constructor has its own
entry. -/
theorem encode_listed (i : Instr) :
    ∃ op, (encode i).head? = some op ∧ (op, i.format) ∈ formsOf i.mnemonic := by
  cases i <;> exact ⟨_, rfl, of_decide_eq_true rfl⟩

/-- An opcode that is listed for a mnemonic selects an instruction of that mnemonic, so that no opcode is listed for
two. -/
theorem formsOf_selects (m : Mnemonic) :
    ∀ e ∈ formsOf m, (shapeOf e.1).map shapeMnemonic = some m := by
  cases m <;> decide

/-- R113: the lists of the forms are complete, and each opcode is in one of them only. -/
theorem encoded (m : Mnemonic) : Encoded m := by
  intro i
  obtain ⟨op, hop, hmem⟩ := encode_listed i
  constructor
  · rintro rfl
    exact ⟨(op, i.format), hmem, hop, rfl⟩
  · rintro ⟨e, he, hhead, -⟩
    have hsame : op = e.1 := Option.some.inj (hop.symm.trans hhead)
    have hi := formsOf_selects _ _ hmem
    have hm := formsOf_selects _ _ he
    rw [← hsame] at hm
    exact Option.some.inj (hi.symm.trans hm)

/-- The shape of the instructions of one mnemonic. -/
theorem meaningOf_shape_of {i : Instr} {m : Mnemonic} (h : i.mnemonic = m) : mnemonicShape (meaningOf i) m := by
  rw [← h]
  exact meaningOf_shape i

/-! ### Loads (R209, R221 to R223) -/

/-- The table's entries for an instruction of the read shape: its operand, and no sub-cost of a write. -/
theorem read_agrees {i : Instr} {o : Operand} {f : Byte → Regs → Regs} (hi : meaningOf i = .read o f) :
    operandOf i = some o ∧ (timingOf i).writeSub = 0 := by
  have h := meaningOf_agrees i
  rwa [hi] at h

/-- R209: an instruction of the read shape is its operand's read, its change of the registers, and the remaining
cycles; the read leaves the registers that the change starts from. -/
theorem exec_read {i : Instr} {o : Operand} {f : Byte → Regs → Regs} {v : Byte} {s t : State}
    (hi : meaningOf i = .read o f) (hl : load (timingOf i) o s = .next (v, t)) :
    exec i s = .next
      (advance ((timingOf i).base - (timingOf i).readSub + s.sched.branch) (t.setRegs (f v s.regs))) := by
  obtain ⟨-, hw0⟩ := read_agrees hi
  have q : Quiet s t := quiet_load _ _ _ _ hl
  rw [exec_eq, hi, Meaning.run, readRegOp, readOp, hl, andThen_next, andThen_next, finish,
    Timing.remainder, hw0, Nat.sub_zero, q.branch, q.regs]
  rfl

/-- R209: the instructions of a mnemonic whose meaning is a change of registers by the operand. -/
theorem readsInto_of_shape {m : Mnemonic} {f : Byte → Regs → Regs} (ok : State → Prop)
    (h : ∀ i : Instr, i.mnemonic = m → ∃ o, meaningOf i = .read o f) : ReadsInto m f ok := by
  refine ⟨encoded m, fun i s him hs _ => ?_⟩
  obtain ⟨o, hi⟩ := h i him
  obtain ⟨⟨v, t⟩, hl⟩ := load_answers hs (timingOf i) o
  have q : Quiet (s.setRegs (f v s.regs)) (t.setRegs (f v s.regs)) := quiet_regs (quiet_load _ _ _ _ hl) _
  exact ⟨o, v, t, _, (read_agrees hi).1, hl, exec_read hi hl, rfl, advance_regs _ _, q.trans (quiet_advance _ _)⟩

/-- Settles O1: the meanings of the three mnemonics are reads into their register; the Z and N of the statement are
the model's `setZN` by definition. -/
theorem loadsReadTheirOperand : Obligations.LoadsReadTheirOperand := by
  unfold Obligations.LoadsReadTheirOperand
  exact ⟨readsInto_of_shape _ fun _ hi => meaningOf_shape_of hi,
    readsInto_of_shape _ fun _ hi => meaningOf_shape_of hi,
    readsInto_of_shape _ fun _ hi => meaningOf_shape_of hi⟩

/-! ### Stores (R209, R224 to R226) -/

/-- R87: a memory that a bus write leaves holds the byte at its address, and is otherwise as before. -/
theorem storesByte_of_storedMem {s u : State} {a : Address} {v : Byte} (h : u.mem = storedMem s a v) :
    StoresByte s u a v := by
  by_cases hr : route s.platform a = .memory
  · have hu : u.mem = writeByte s.mem a.toNat v := by rw [h, storedMem, if_pos hr]
    refine ⟨fun c hc => ?_, fun _ hwf => ?_, fun hne => absurd hr hne⟩
    · rw [hu, readByte_writeByte_other v hc]
    · rw [hu, readByte_writeByte_same hwf]
  · have hu : u.mem = s.mem := by rw [h, storedMem, if_neg hr]
    exact ⟨fun c _ => by rw [hu], fun hm => absurd hm hr, fun _ => hu⟩

/-- The table's entries for an instruction of the write shape: its address, no sub-cost of a read, and no penalty. -/
theorem write_agrees {i : Instr} {m : EaMode} {f : Regs → Byte} (hi : meaningOf i = .write m f) :
    operandOf i = some (.byte m) ∧ (timingOf i).readSub = 0 ∧ (timingOf i).penalty = false := by
  have h := meaningOf_agrees i
  rwa [hi] at h

/-- R209: an instruction of the write shape is its address's resolution, the gated write, and the remaining cycles;
the register stored is the one from before, since neither the pointer reads nor the write change it. -/
theorem exec_write {i : Instr} {m : EaMode} {f : Regs → Byte} {r : Resolved} {s t q : State}
    (hi : meaningOf i = .write m f) (hr : resolve m s = .next (r, t))
    (hw : gatedWrite (timingOf i) r.ea (f s.regs) t = .next q) :
    exec i s = .next (advance ((timingOf i).base - (timingOf i).writeSub + s.sched.branch) q) := by
  obtain ⟨-, hr0, -⟩ := write_agrees hi
  have hq : Quiet s t := quiet_resolve _ _ _ hr
  have hst := (steady_gatedWrite hw).1
  rw [exec_eq, hi, Meaning.run, writeOp, hr, andThen_next, hq.regs, hw, andThen_next, finish,
    Timing.remainder, hr0, Nat.sub_zero, hst.branch, hq.branch]

/-- R209: the instructions of a mnemonic whose meaning is the store of a register. -/
theorem storesRegister_of_shape {m : Mnemonic} {f : Regs → Byte}
    (h : ∀ i : Instr, i.mnemonic = m → ∃ e, meaningOf i = .write e f) : StoresRegister m f := by
  refine ⟨encoded m, fun i s him hs => ?_⟩
  obtain ⟨e, hi⟩ := h i him
  obtain ⟨⟨r, t⟩, hr⟩ := resolve_answers hs e
  have hq : Quiet s t := quiet_resolve _ _ _ hr
  obtain ⟨q, hw⟩ := gatedWrite_answers (hs.quiet hq) (timingOf i) r.ea (f s.regs)
  obtain ⟨hst, hmem⟩ := steady_gatedWrite hw
  have hadv := quiet_advance ((timingOf i).base - (timingOf i).writeSub + s.sched.branch) q
  refine ⟨e, r, t, q, _, (write_agrees hi).1, hr, hw, exec_write hi hr hw, rfl,
    (hq.toSteady.trans hst).trans hadv.toSteady, storesByte_of_storedMem ?_⟩
  rw [hadv.mem, hmem, storedMem_quiet hq]

/-- Settles O5: the meanings of the three mnemonics are stores of their register. -/
theorem storesWriteTheirRegister : Obligations.StoresWriteTheirRegister := by
  unfold Obligations.StoresWriteTheirRegister
  exact ⟨storesRegister_of_shape fun _ hi => meaningOf_shape_of hi,
    storesRegister_of_shape fun _ hi => meaningOf_shape_of hi,
    storesRegister_of_shape fun _ hi => meaningOf_shape_of hi⟩

/-! ### Transfers (R227 to R232) -/

/-- An instruction of one byte and 2 cycles, none of them an access's, whose meaning is a change of registers. -/
theorem changesRegs_of_meaning {i : Instr} {op : Byte} {f : Regs → Regs} (he : encode i = [op])
    (hi : meaningOf i = .regs f) (ht : timingOf i = { base := 2 }) : ChangesRegs i op f := by
  refine ⟨he, fun s => ?_⟩
  rw [exec_eq, hi, ht]
  rfl

/-- Settles O9: the meanings of the six transfers are changes of registers. -/
theorem transfersCopyARegister : Obligations.TransfersCopyARegister := by
  unfold Obligations.TransfersCopyARegister
  refine ⟨?_, ?_, ?_, ?_, ?_, ?_⟩ <;> exact changesRegs_of_meaning rfl rfl rfl

end Sys2Proof.Machine

/-! The statements about 43_arithmetic_logic.md: the logical instructions, comparisons and index counts from the shape
of their meaning, ADC and SBC with their decimal error, the modifications of memory, and C and V as arithmetic. -/

namespace Sys2Proof.Machine

/-! ### Logic, comparisons and index registers (R263 to R269, R272 to R275) -/

/-- Settles O2: the meanings of the four mnemonics are reads that combine A with the operand. -/
theorem logicalInstructionsCombineTheAccumulator : Obligations.LogicalInstructionsCombineTheAccumulator := by
  unfold Obligations.LogicalInstructionsCombineTheAccumulator
  exact ⟨readsInto_of_shape _ fun _ hi => meaningOf_shape_of hi,
    readsInto_of_shape _ fun _ hi => meaningOf_shape_of hi,
    readsInto_of_shape _ fun _ hi => meaningOf_shape_of hi,
    readsInto_of_shape _ fun _ hi => meaningOf_shape_of hi⟩

/-- Settles O3: the meanings of the three mnemonics are reads that write `compareFlags` of their register. -/
theorem comparisonsSetCarryZeroNegative : Obligations.ComparisonsSetCarryZeroNegative := by
  unfold Obligations.ComparisonsSetCarryZeroNegative
  exact ⟨readsInto_of_shape _ fun _ hi => meaningOf_shape_of hi,
    readsInto_of_shape _ fun _ hi => meaningOf_shape_of hi,
    readsInto_of_shape _ fun _ hi => meaningOf_shape_of hi⟩

/-- Settles O10: the meanings of the four instructions are changes of registers. -/
theorem indexRegistersCount : Obligations.IndexRegistersCount := by
  unfold Obligations.IndexRegistersCount
  refine ⟨?_, ?_, ?_, ?_⟩ <;> exact changesRegs_of_meaning rfl rfl rfl

/-! ### ADC and SBC (R209, R261, R262, R402) -/

/-- The table's entries for an instruction of the arithmetic shape: its operand, and no sub-cost of a write. -/
theorem arith_agrees {i : Instr} {o : Operand} {f : Byte → State → Result} (hi : meaningOf i = .arith o f) :
    operandOf i = some o ∧ (timingOf i).writeSub = 0 := by
  have h := meaningOf_agrees i
  rwa [hi] at h

/-- R209: an instruction of the arithmetic shape is its operand's read, then its effect, which may raise, and then the
remaining cycles. -/
theorem exec_arith {i : Instr} {o : Operand} {f : Byte → State → Result} {v : Byte} {s t : State}
    (hi : meaningOf i = .arith o f) (hl : load (timingOf i) o s = .next (v, t)) :
    exec i s = andThen (f v t) (finish (timingOf i)) := by
  rw [exec_eq, hi, Meaning.run, readOp, hl, andThen_next]

/-- R261: with D clear ADC adds. -/
theorem adc_binary (op v : Byte) {t : State} (h : t.regs.p.d = false) :
    adc op v t = .next (t.setRegs (addRegs v t.regs)) :=
  if_neg (by simp [h])

/-- R262: with D clear SBC subtracts. -/
theorem sbc_binary (op v : Byte) {t : State} (h : t.regs.p.d = false) :
    sbc op v t = .next (t.setRegs (subRegs v t.regs)) :=
  if_neg (by simp [h])

/-- R402: with D set ADC raises the error of its opcode. -/
theorem adc_decimal (op v : Byte) {t : State} (h : t.regs.p.d = true) : adc op v t = raise (.unsupportedDecimal op) t :=
  if_pos h

/-- R402: with D set SBC raises the error of its opcode. -/
theorem sbc_decimal (op v : Byte) {t : State} (h : t.regs.p.d = true) : sbc op v t = raise (.unsupportedDecimal op) t :=
  if_pos h

/-- R209: the instructions of a mnemonic of the arithmetic shape, where the effect is a change of registers while D is
clear; the operand's read leaves D, and all registers, as they were. -/
theorem readsInto_of_arith {m : Mnemonic} {f : Byte → Regs → Regs} {g : Byte → Byte → State → Result}
    (hg : ∀ op v {t : State}, t.regs.p.d = false → g op v t = .next (t.setRegs (f v t.regs)))
    (h : ∀ i : Instr, i.mnemonic = m → ∃ o op, meaningOf i = .arith o (g op)) :
    ReadsInto m f (fun s => s.regs.p.d = false) := by
  refine ⟨encoded m, fun i s him hs hd => ?_⟩
  obtain ⟨o, op, hi⟩ := h i him
  obtain ⟨hop, hw0⟩ := arith_agrees hi
  obtain ⟨⟨v, t⟩, hl⟩ := load_answers hs (timingOf i) o
  have ql : Quiet s t := quiet_load _ _ _ _ hl
  have q : Quiet (s.setRegs (f v s.regs)) (t.setRegs (f v s.regs)) := quiet_regs ql _
  have hx : exec i s = .next
      (advance ((timingOf i).base - (timingOf i).readSub + s.sched.branch) (t.setRegs (f v s.regs))) := by
    rw [exec_arith hi hl, hg op v (by rw [ql.regs, hd]), andThen_next, finish, Timing.remainder, hw0, Nat.sub_zero,
      ql.regs, q.branch]
    rfl
  exact ⟨o, v, t, _, hop, hl, hx, rfl, advance_regs _ _, q.trans (quiet_advance _ _)⟩

/-- ADC and SBC are the instructions of the arithmetic shape. -/
theorem arith_of_mnemonic {i : Instr} (h : i.mnemonic = .adc ∨ i.mnemonic = .sbc) :
    ∃ o f, meaningOf i = .arith o f := by
  obtain h | h := h <;> obtain ⟨o, op, hi⟩ := meaningOf_shape_of h <;> exact ⟨o, _, hi⟩

/-- R402: with D set the instruction ends after the operand's read, with the decimal error of its own opcode. -/
theorem exec_decimal {i : Instr} {o : Operand} {f : Byte → State → Result} {v op : Byte} {s t : State}
    (hi : meaningOf i = .arith o f) (hd : s.regs.p.d = true) (hl : load (timingOf i) o s = .next (v, t))
    (hrun : t.fault = none) (hop : (encode i).head? = some op) : exec i s = .fault (.unsupportedDecimal op) := by
  have hdt : t.regs.p.d = true := by rw [(quiet_load _ _ _ _ hl).regs, hd]
  have hraise : f v t = raise (.unsupportedDecimal op) t := by
    obtain ⟨op', hop', hf⟩ := arith_opcode i o f hi
    cases hop.symm.trans hop'
    obtain rfl | rfl := hf
    · exact adc_decimal op v hdt
    · exact sbc_decimal op v hdt
  rw [exec_arith hi hl, hraise, andThen_raise, raise_running _ hrun]

/-- Settles O4: the sum and the difference while D is clear, and the error while it is set. -/
theorem addAndSubtract : Obligations.AddAndSubtract := by
  unfold Obligations.AddAndSubtract
  refine ⟨readsInto_of_arith adc_binary fun _ hi => meaningOf_shape_of hi,
    readsInto_of_arith sbc_binary fun _ hi => meaningOf_shape_of hi, fun i s t o v op hm hd ho hl hrun hop => ?_⟩
  obtain ⟨o', f, hi⟩ := arith_of_mnemonic hm
  cases ho.symm.trans (arith_agrees hi).1
  exact exec_decimal hi hd hl hrun hop

/-! ### Modifications of memory (R209, R270, R271) -/

/-- Two states that agree but for bus accesses and time still do so with the same flags written to both. -/
theorem steady_setP {s t : State} (h : Steady s t) (p : Flags) : Steady (s.setP p) (t.setP p) :=
  ⟨by simp [h.regs], h.platform, h.total, h.branch, h.inEntry, h.due, h.justSet, h.justCleared⟩

/-- The table's entry for an instruction of the modification shape: its address. -/
theorem modify_operand {i : Instr} {m : EaMode} {f : Byte → Flags → Byte × Flags}
    (hi : meaningOf i = .modify m f) : operandOf i = some (.byte m) := by
  have h := meaningOf_agrees i
  rw [hi] at h
  exact h.1

/-- R209: an instruction of the modification shape is its address's resolution, the gated read, the gated write of the
result at the same address, the flags, and the remaining cycles; the flags that it starts from are those from before,
since no access changes them. -/
theorem exec_modify {i : Instr} {m : EaMode} {f : Byte → Flags → Byte × Flags} {r : Resolved} {v : Byte}
    {s t q x : State} (hi : meaningOf i = .modify m f) (hr : resolve m s = .next (r, t))
    (hg : gatedRead (timingOf i) r t = .next (v, q))
    (hw : gatedWrite (timingOf i) r.ea (f v s.regs.p).1 q = .next x) :
    exec i s = .next
      (advance ((timingOf i).base - (timingOf i).readSub - (timingOf i).writeSub + s.sched.branch)
        (x.setP (f v s.regs.p).2)) := by
  have hq : Quiet s q := (quiet_resolve _ _ _ hr).trans (quiet_gatedRead _ _ _ _ hg)
  have hst := (steady_gatedWrite hw).1
  rw [exec_eq, hi, Meaning.run, rmwOp, hr, andThen_next, hg, andThen_next, hq.regs, hw, andThen_next, finish,
    Timing.remainder, setP_sched, hst.branch, hq.branch]

/-- R209: the memory forms of a mnemonic whose meaning there is a modification. -/
theorem modifies_of_shape {m : Mnemonic} {f : Byte → Flags → Byte × Flags}
    (h : ∀ i : Instr, i.mnemonic = m → i.format ≠ .acc → ∃ e, meaningOf i = .modify e f) : Modifies m f := by
  refine ⟨encoded m, fun i s him hacc hs => ?_⟩
  obtain ⟨e, hi⟩ := h i him hacc
  obtain ⟨⟨r, t⟩, hr⟩ := resolve_answers hs e
  have ht : Quiet s t := quiet_resolve _ _ _ hr
  obtain ⟨⟨v, q⟩, hg⟩ := gatedRead_answers (hs.quiet ht) (timingOf i) r
  have hq : Quiet s q := ht.trans (quiet_gatedRead _ _ _ _ hg)
  obtain ⟨x, hw⟩ := gatedWrite_answers (hs.quiet hq) (timingOf i) r.ea (f v s.regs.p).1
  obtain ⟨hst, hmem⟩ := steady_gatedWrite hw
  refine ⟨e, r, t, v, q, x, _, modify_operand hi, hr, hg, hw, exec_modify hi hr hg hw, rfl,
    (steady_setP (hq.toSteady.trans hst) _).trans (quiet_advance _ _).toSteady, storesByte_of_storedMem ?_⟩
  rw [advance_mem, setP_mem, hmem, storedMem_quiet hq]

/-- Settles O6: every meaning of the two mnemonics is a modification. -/
theorem incrementAndDecrementMemory : Obligations.IncrementAndDecrementMemory := by
  unfold Obligations.IncrementAndDecrementMemory
  exact ⟨modifies_of_shape fun _ hi _ => meaningOf_shape_of hi,
    modifies_of_shape fun _ hi _ => meaningOf_shape_of hi⟩

/-! ### C and V as arithmetic (R276) -/

theorem adcResult_toNat (a m : Byte) (c : Bool) : (adcResult a m c).toNat = adcSum a m c % 256 :=
  BitVec.toNat_ofNat _ _

/-- A byte's complement, as a signed number. -/
theorem toInt_complement (m : Byte) : (~~~m).toInt = -m.toInt - 1 := by
  have hm := m.isLt
  rw [toInt_byte, toInt_byte, BitVec.toNat_not]
  split <;> split <;> omega

/-- R261: V of ADC by the sign bits: the operands have one sign and the result the other. -/
theorem adcFlags_v_signs (a m : Byte) (p : Flags) :
    (adcFlags a m p).v =
      (!(a.getLsbD 7 ^^ m.getLsbD 7) && (a.getLsbD 7 ^^ (adcResult a m p.c).getLsbD 7)) := by
  have hrule : (adcFlags a m p).v = ((~~~(a ^^^ m)) &&& (a ^^^ adcResult a m p.c)).getLsbD 7 := rfl
  rw [hrule, BitVec.getLsbD_and, BitVec.getLsbD_not, BitVec.getLsbD_xor, BitVec.getLsbD_xor]
  rfl

/-- R261, R276: V of ADC is signed overflow. Operands of different signs never overflow; of equal signs they do exactly
when the result's sign is the other. -/
theorem adcFlags_v (a m : Byte) (p : Flags) :
    (adcFlags a m p).v = decide (a.toInt + m.toInt + p.c.toNat < -128 ∨ 127 < a.toInt + m.toInt + p.c.toNat) := by
  have ha := a.isLt
  have hm := m.isLt
  have hc := p.c.toNat_le
  have hsum : (adcResult a m p.c).toNat = (a.toNat + m.toNat + p.c.toNat) % 256 := adcResult_toNat a m p.c
  rw [adcFlags_v_signs, toInt_byte, toInt_byte, getLsbD_seven, getLsbD_seven, getLsbD_seven, hsum, Bool.eq_iff_iff]
  by_cases hsa : 128 ≤ a.toNat <;> by_cases hsm : 128 ≤ m.toNat <;> simp [hsa, hsm] <;> omega

/-- R262, R276: the difference is the sum with the complement, less 256. -/
theorem sbcDiff_eq_adcSum_complement (a m : Byte) (c : Bool) : sbcDiff a m c = (adcSum a (~~~m) c : Int) - 256 := by
  have hm := m.isLt
  rw [sbcDiff, adcSum, BitVec.toNat_not]
  omega

theorem sbcResult_eq_adcResult_complement (a m : Byte) (c : Bool) : sbcResult a m c = adcResult a (~~~m) c := by
  apply BitVec.eq_of_toNat_eq
  rw [adcResult_toNat, sbcResult, BitVec.toNat_ofInt, sbcDiff_eq_adcSum_complement]
  omega

/-- R276: no borrow is a carry out of the sum with the complement, and the two rules for V agree since `a ^^^ m` is the
complement of `a ^^^ ~~~m`. -/
theorem sbcFlags_eq_adcFlags_complement (a m : Byte) (p : Flags) : sbcFlags a m p = adcFlags a (~~~m) p := by
  have hcarry : decide (0 ≤ sbcDiff a m p.c) = decide (256 ≤ adcSum a (~~~m) p.c) := by
    rw [sbcDiff_eq_adcSum_complement, decide_eq_decide]
    omega
  have hsign : a ^^^ m = ~~~(a ^^^ ~~~m) := by
    rw [BitVec.xor_comm a (~~~m), BitVec.not_xor_left, BitVec.not_not, BitVec.xor_comm]
  rw [sbcFlags, adcFlags, hcarry, sbcResult_eq_adcResult_complement, hsign]

theorem sbcFlags_c (a m : Byte) (p : Flags) :
    (sbcFlags a m p).c = decide (m.toNat + (1 - p.c.toNat) ≤ a.toNat) := by
  have hc := p.c.toNat_le
  have hrule : (sbcFlags a m p).c = decide (0 ≤ sbcDiff a m p.c) := rfl
  rw [hrule, sbcDiff, decide_eq_decide]
  omega

/-- R262, R276: signed overflow of a difference, by that of the sum with the complement. -/
theorem sbcFlags_v (a m : Byte) (p : Flags) :
    (sbcFlags a m p).v =
      decide (a.toInt - m.toInt - (1 - p.c.toNat) < -128 ∨ 127 < a.toInt - m.toInt - (1 - p.c.toNat)) := by
  rw [sbcFlags_eq_adcFlags_complement, adcFlags_v, toInt_complement, decide_eq_decide]
  omega

/-- Settles O58: V of ADC by the signs, SBC as ADC of the complement, and the rest from the definitions. -/
theorem overflowIsSignedOverflow : Obligations.OverflowIsSignedOverflow := by
  unfold Obligations.OverflowIsSignedOverflow
  exact fun a m p => ⟨rfl, adcFlags_v a m p, sbcFlags_c a m p, sbcFlags_v a m p, rfl, rfl, rfl, rfl, rfl, rfl,
    sbcResult_eq_adcResult_complement a m p.c, sbcFlags_eq_adcFlags_complement a m p⟩

end Sys2Proof.Machine

/-! The statements about 44_shift_rotate.md: the memory forms are the modifications among the meanings of a shift, the
accumulator forms its changes of registers; what the rules leave to show is N after LSR. -/

namespace Sys2Proof.Machine

/-- R312: half of a byte is below 128. -/
theorem getLsbD_seven_half (m : Byte) : (BitVec.ofNat 8 (m.toNat / 2)).getLsbD 7 = false := by
  have hm := m.isLt
  rw [getLsbD_seven, BitVec.toNat_ofNat, decide_eq_false_iff_not]
  omega

/-- R310, R312: the N that LSR clears is bit 7 of its result, so that LSR sets its flags as the other shifts do. -/
theorem lsrResult_eq_shiftFlags (m : Byte) (p : Flags) :
    lsrResult m p =
      (BitVec.ofNat 8 (m.toNat / 2), shiftFlags (m.getLsbD 0) (BitVec.ofNat 8 (m.toNat / 2)) p) := by
  rw [lsrResult, shiftFlags, getLsbD_seven_half]

/-- R310: of the two shapes of a shift, an instruction that is no accumulator form has the modification. -/
theorem modifies_of_shift {m : Mnemonic} {f : Byte → Flags → Byte × Flags} (hm : m ∈ [.asl, .lsr, .rol, .ror])
    (h : ∀ i : Instr, i.mnemonic = m → meaningOf i = .regs (accumulator f) ∨ ∃ e, meaningOf i = .modify e f) :
    Modifies m f := by
  refine modifies_of_shape fun i hi hacc => (h i hi).resolve_left fun hregs => ?_
  obtain ⟨e, g, hmodify⟩ := shift_memory i (hi ▸ hm) hacc
  cases hregs.symm.trans hmodify

/-- Settles O7: each mnemonic modifies memory by its result, which for ASL, ROL and ROR is the statement's by
definition and for LSR by its N. -/
theorem shiftsOfMemory : Obligations.ShiftsOfMemory := by
  unfold Obligations.ShiftsOfMemory
  have hlsr : Modifies .lsr lsrResult := modifies_of_shift (by decide) fun _ hi => meaningOf_shape_of hi
  rw [funext₂ lsrResult_eq_shiftFlags] at hlsr
  exact ⟨modifies_of_shift (by decide) fun _ hi => meaningOf_shape_of hi, hlsr,
    modifies_of_shift (by decide) fun _ hi => meaningOf_shape_of hi,
    modifies_of_shift (by decide) fun _ hi => meaningOf_shape_of hi⟩

/-- Settles O8: each accumulator form is its result written to A and P, for LSR again by its N. -/
theorem shiftsOfTheAccumulator : Obligations.ShiftsOfTheAccumulator := by
  unfold Obligations.ShiftsOfTheAccumulator
  have hlsr : ChangesRegs .lsrAcc 0x4A (accumulator lsrResult) := changesRegs_of_meaning rfl rfl rfl
  rw [funext₂ lsrResult_eq_shiftFlags] at hlsr
  exact ⟨changesRegs_of_meaning rfl rfl rfl, hlsr, changesRegs_of_meaning rfl rfl rfl,
    changesRegs_of_meaning rfl rfl rfl⟩

end Sys2Proof.Machine

/-! The statements about 45_stack_flags_misc.md: the flag instructions as changes of registers, the pushes and pulls as
one stack access and then their remaining cycles, and the I markers as what `TrackI` alone writes. -/

namespace Sys2Proof.Machine

/-! ### Instructions with effects of their own (R330) -/

/-- R330: an instruction without a gated access is its effect, and then the cycles of Table 41-1; an effect that leaves
`BranchExtra` adds to them what `BranchExtra` was. -/
theorem exec_plain {i : Instr} {f : State → Result} {s t : State} (hi : meaningOf i = .plain f) (ht : f s = .next t)
    (hb : t.sched.branch = s.sched.branch) :
    exec i s = .next (advance ((timingOf i).base + s.sched.branch) t) := by
  have hcost := meaningOf_agrees i
  rw [hi] at hcost
  obtain ⟨-, hr, hw⟩ := hcost
  rw [exec_eq, hi, Meaning.run, plainOp, ht, andThen_next, finish, Timing.remainder, hr, hw, hb]
  rfl

/-! ### The flag instructions and NOP (R335 to R342) -/

/-- Settles O11: the meanings of the six instructions are changes of registers, of which `SetFlagsExplicit` with a mask
of one flag is the write of that flag by definition. -/
theorem flagInstructionsWriteOneFlag : Obligations.FlagInstructionsWriteOneFlag := by
  unfold Obligations.FlagInstructionsWriteOneFlag
  refine ⟨?_, ?_, ?_, ?_, ?_, ?_⟩ <;> exact changesRegs_of_meaning rfl rfl rfl

/-- R337, R341: an instruction of 2 cycles that writes I and records the change. -/
theorem exec_writeI {i : Instr} {new : Bool} (hi : meaningOf i = .plain (writeI new)) (ht : timingOf i = { base := 2 })
    (s : State) :
    exec i s = .next
      (advance (2 + s.sched.branch) (trackI s.regs.p.i new (s.setP { s.regs.p with i := new }))) := by
  rw [exec_plain hi rfl rfl, ht]

/-- R343: the old I and the new value 0 (1) leave one of the two markers to the old I. -/
theorem trackI_false (old : Bool) (s : State) :
    trackI old false s = { s with irq := { s.irq with justSet := false, justCleared := old } } := by
  rw [trackI, Bool.and_false, Bool.not_false, Bool.and_true]

theorem trackI_true (old : Bool) (s : State) :
    trackI old true s = { s with irq := { s.irq with justSet := !old, justCleared := false } } := by
  rw [trackI, Bool.and_true, Bool.not_true, Bool.and_false]

/-- Settles O12: both instructions write I and record the change, which `TrackI` with a fixed new value makes one
marker. -/
theorem interruptDisableIsTracked : Obligations.InterruptDisableIsTracked := by
  unfold Obligations.InterruptDisableIsTracked
  refine fun s => ⟨rfl, rfl, ?_, ?_⟩
  · rw [exec_writeI rfl rfl, trackI_false]
    rfl
  · rw [exec_writeI rfl rfl, trackI_true]
    rfl

/-! ### PHA and PHP (R143, R331, R332) -/

theorem push_answers {s : State} (h : Supported s) (v : Byte) : ∃ t, push v s = .next t := by
  obtain ⟨t, ht⟩ := memWrite_answers h (stackAddr s.regs.sp) v
  exact ⟨_, by rw [push, ht, andThen_next]⟩

/-- R143: an instruction of 3 cycles whose effect in this state is the push of a byte. -/
theorem exec_push {i : Instr} {f : State → Result} {v : Byte} {s : State} (hs : Supported s)
    (hi : meaningOf i = .plain f) (hf : f s = push v s) (hc : (timingOf i).base = 3) :
    ∃ t u, push v s = .next t ∧ exec i s = .next u ∧ u = advance (3 + s.sched.branch) t ∧
      Steady (s.setSp (s.regs.sp - 1)) u ∧ StoresByte s u (stackAddr s.regs.sp) v := by
  obtain ⟨t, ht⟩ := push_answers hs v
  obtain ⟨-, hmem, -, hst⟩ := push_next ht
  have hx := exec_plain hi (hf.trans ht) hst.branch
  rw [hc] at hx
  refine ⟨t, _, ht, hx, rfl, hst.trans (quiet_advance _ _).toSteady, storesByte_of_storedMem ?_⟩
  rw [advance_mem, hmem]

/-- Settles O13: both are the push of their byte. -/
theorem pushesStoreOneByte : Obligations.PushesStoreOneByte := by
  unfold Obligations.PushesStoreOneByte
  exact ⟨encoded .pha, encoded .php, fun s hs => ⟨exec_push hs rfl rfl rfl, exec_push hs rfl rfl rfl⟩⟩

/-! ### PLA and PLP (R144, R333, R334) -/

/-- R333: PLA is the pull, the byte and its Z and N written, and the remaining cycles. -/
theorem exec_pla {v : Byte} {s t : State} (h : pop s = .next (v, t)) :
    exec .pla s = .next
      (advance (4 + s.sched.branch)
        (t.setRegs { s.regs with a := v, sp := s.regs.sp + 1, p := setZN v s.regs.p })) := by
  have q : Quiet (s.setSp (s.regs.sp + 1)) t := quiet_pop _ h
  have he : pullA s =
      .next (t.setRegs { s.regs with a := v, sp := s.regs.sp + 1, p := setZN v s.regs.p }) := by
    rw [pullA, h, andThen_next, q.regs]
    rfl
  exact exec_plain rfl he q.branch

/-- R334: PLP is the pull, the flags written and the change of I recorded, and the remaining cycles. -/
theorem exec_plp {v : Byte} {s t : State} (h : pop s = .next (v, t)) :
    exec .plp s = .next
      (advance (4 + s.sched.branch)
        (trackI s.regs.p.i (unpackP v).i (t.setRegs { s.regs with sp := s.regs.sp + 1, p := unpackP v }))) := by
  have q : Quiet (s.setSp (s.regs.sp + 1)) t := quiet_pop _ h
  have he : pullP s =
      .next (trackI s.regs.p.i (unpackP v).i (t.setRegs { s.regs with sp := s.regs.sp + 1, p := unpackP v })) := by
    rw [pullP, h, andThen_next, State.setP, q.regs]
    rfl
  exact exec_plain rfl he q.branch

/-- Settles O14: the two instructions around one pull, which moves the stack pointer and nothing else. -/
theorem pullsLoadOneByte : Obligations.PullsLoadOneByte := by
  unfold Obligations.PullsLoadOneByte
  refine ⟨encoded .pla, encoded .plp, fun s hs => ?_⟩
  obtain ⟨⟨v, t⟩, h⟩ := pop_answers hs
  have q : Quiet (s.setSp (s.regs.sp + 1)) t := quiet_pop _ h
  refine ⟨v, t, h, fun hm => pop_memory_value hm h, ⟨_, exec_pla h, rfl, ?_⟩, ⟨_, exec_plp h, rfl, ?_⟩⟩
  · exact (quiet_regs q _).trans (quiet_advance _ _)
  · have hadv := quiet_advance (4 + s.sched.branch)
      (trackI s.regs.p.i (unpackP v).i (t.setRegs { s.regs with sp := s.regs.sp + 1, p := unpackP v }))
    exact ⟨hadv.regs, hadv.mem.trans q.mem, hadv.justSet, hadv.justCleared, hadv.due.trans q.due,
      hadv.total.trans q.total⟩

/-! ### The I markers (R54, R343) -/

/-- R343: the markers of `t` are the change of I from `s` to `t`. -/
def TracksI (s t : State) : Prop :=
  t.irq.justSet = (!s.regs.p.i && t.regs.p.i) ∧ t.irq.justCleared = (s.regs.p.i && !t.regs.p.i)

/-- R54: the markers of `t` are those of `s`. -/
def KeepsMarkers (s t : State) : Prop :=
  t.irq.justSet = s.irq.justSet ∧ t.irq.justCleared = s.irq.justCleared

theorem TracksI.quiet {s t u : State} (h : TracksI s t) (q : Quiet t u) : TracksI s u := by
  unfold TracksI
  rw [q.justSet, q.justCleared, q.regs]
  exact h

theorem Steady.keepsMarkers {s t : State} (h : Steady s t) : KeepsMarkers s t := ⟨h.justSet, h.justCleared⟩

theorem KeepsMarkers.trans {s t u : State} (h : KeepsMarkers s t) (k : KeepsMarkers t u) : KeepsMarkers s u :=
  ⟨k.1.trans h.1, k.2.trans h.2⟩

/-- R360: a branch, taken or not, leaves the controller as it is. -/
theorem branch_irq (cond : Bool) (d : Byte) (s : State) : (branch cond d s).irq = s.irq := by
  cases cond <;> rfl

theorem writeI_tracksI {new : Bool} {s t : State} (h : writeI new s = .next t) : TracksI s t := by
  cases h
  exact ⟨rfl, rfl⟩

theorem pullP_tracksI {s t : State} (h : pullP s = .next t) : TracksI s t := by
  obtain ⟨v, hr, -, hset, hcleared⟩ := pullP_moves h
  unfold TracksI
  rw [hr]
  exact ⟨hset, hcleared⟩

/-- R343: the effect of each tracked instruction records the change of I. -/
theorem tracksI_of_shape {m : Mnemonic} {w : Meaning} (hm : m ∈ [.sei, .cli, .plp]) (hw : mnemonicShape w m) :
    ∃ f, w = .plain f ∧ ∀ s t, f s = .next t → TracksI s t := by
  simp only [List.mem_cons, List.not_mem_nil, or_false] at hm
  obtain rfl | rfl | rfl := hm
  · exact ⟨_, hw, fun _ _ => writeI_tracksI⟩
  · exact ⟨_, hw, fun _ _ => writeI_tracksI⟩
  · exact ⟨_, hw, fun _ _ => pullP_tracksI⟩

/-- R343: an effect of its own, in an instruction that is not tracked, leaves the markers and the request; the mnemonics
without such an effect contradict the shape. -/
theorem aside_of_shape {m : Mnemonic} {f : State → Result} {s t : State} (hm : m ∉ [.sei, .cli, .plp])
    (hw : mnemonicShape (.plain f) m) (h : f s = .next t) : Aside s t := by
  cases m
  case sei | cli | plp => exact absurd (by decide) hm
  case pha | php =>
    cases hw
    exact (push_moves h).aside
  case pla =>
    cases hw
    obtain ⟨v, hv⟩ := pullA_moves h
    exact hv.aside
  case jsr =>
    obtain ⟨a, ⟨⟩⟩ := hw
    obtain ⟨q, hq⟩ := call_moves h
    exact hq.aside
  case jmp =>
    obtain ⟨a, hj | hj⟩ := hw <;> cases hj
    · cases h
      exact ⟨rfl, rfl, rfl, rfl, rfl, rfl, rfl⟩
    · obtain ⟨b, hb⟩ := jumpIndirect_moves h
      exact hb.aside
  case rts =>
    cases hw
    obtain ⟨a, ha⟩ := returnFromSubroutine_moves h
    exact ha.aside
  case rti =>
    cases hw
    obtain ⟨v, a, ha⟩ := returnFromException_moves h
    exact ha.aside
  case brk =>
    cases hw
    obtain ⟨a, q, ha⟩ := takeException_moves h
    exact ha.aside
  case asl | lsr | rol | ror => obtain h | ⟨_, h⟩ := hw <;> cases h
  case adc | sbc => obtain ⟨_, _, h⟩ := hw; cases h
  case lda | ldx | ldy | and | ora | eor | bit | cmp | cpx | cpy | sta | stx | sty | inc | dec |
      bpl | bmi | bvc | bvs | bcc | bcs | bne | beq =>
    obtain ⟨_, h⟩ := hw
    cases h
  case tax | tay | txa | tya | tsx | txs | inx | iny | dex | dey | clc | cld | clv | sec | sed | nop => cases hw

/-- R54: only an effect of its own lets an instruction change the markers. -/
theorem exec_keepsMarkers {i : Instr} {s u : State} (h : exec i s = .next u)
    (hplain : ∀ f t, meaningOf i = .plain f → f s = .next t → KeepsMarkers s t) : KeepsMarkers s u := by
  have he := exec_effect i h
  generalize meaningOf i = w at he hplain
  cases w with
  | read o f =>
    obtain ⟨v, q⟩ := he
    exact ⟨q.justSet, q.justCleared⟩
  | arith o f => obtain ⟨v, q | q⟩ := he <;> exact ⟨q.justSet, q.justCleared⟩
  | write m f =>
    obtain ⟨a, st, -⟩ := he
    exact st.keepsMarkers
  | modify m f =>
    obtain ⟨a, v, st, -⟩ := he
    exact ⟨st.justSet, st.justCleared⟩
  | regs f => exact ⟨he.justSet, he.justCleared⟩
  | branch d c =>
    have hb := branch_irq (c s.regs.p) d s
    exact KeepsMarkers.trans ⟨by rw [hb], by rw [hb]⟩ (Quiet.toSteady he).keepsMarkers
  | plain f =>
    obtain ⟨t, ht, q⟩ := he
    exact (hplain f t rfl ht).trans q.toSteady.keepsMarkers

/-- R343: an instruction whose effect records the change of I has it recorded when it completes. -/
theorem exec_tracksI {i : Instr} {f : State → Result} {s u : State} (hi : meaningOf i = .plain f)
    (hf : ∀ t, f s = .next t → TracksI s t) (h : exec i s = .next u) : TracksI s u := by
  have he := exec_effect i h
  rw [hi] at he
  obtain ⟨t, ht, q⟩ := he
  exact (hf t ht).quiet q

/-- Settles O28: the tracked instructions record the change of I, and the effect of every other instruction stays aside
of the controller. -/
theorem onlyTrackedInstructionsSetTheMarkers : Obligations.OnlyTrackedInstructionsSetTheMarkers := by
  unfold Obligations.OnlyTrackedInstructionsSetTheMarkers
  refine fun i s u h => ⟨fun hm => ?_, fun hm => exec_keepsMarkers h fun f t hi ht => ?_⟩
  · obtain ⟨f, hi, hf⟩ := tracksI_of_shape hm (meaningOf_shape i)
    exact exec_tracksI hi (hf s) h
  · have hshape := meaningOf_shape i
    rw [hi] at hshape
    have ha := aside_of_shape hm hshape ht
    exact ⟨ha.justSet, ha.justCleared⟩

end Sys2Proof.Machine

/-! The statements about 46_control_transfer.md: the branches from the shape of their meaning, the jumps, calls and
returns as their bus accesses and then their remaining cycles, and which instructions write the program counter. -/

namespace Sys2Proof.Machine

/-! ### Branches (R360 to R368) -/

/-- R360: `branchCost` by the test of the same page, as the statement of the branches has it. -/
theorem branchCost_eq (pc target : Address) : branchCost pc target = if page target = page pc then 1 else 2 :=
  ite_not ..

/-- R360: an instruction of 2 cycles whose meaning is a branch. -/
theorem branchesOn_of_meaning {i : Byte → Instr} {op : Byte} {cond : Flags → Bool} (he : ∀ d, encode (i d) = [op, d])
    (hi : ∀ d, meaningOf (i d) = .branch d cond) (ht : ∀ d, timingOf (i d) = { base := 2 }) :
    BranchesOn i op cond := by
  refine ⟨he, fun d s => ?_⟩
  have hx : exec (i d) s = finish { base := 2 } (branch (cond s.regs.p) d s) := by
    rw [exec_eq, hi, ht, Meaning.run, branchOp]
  constructor
  · intro hc
    rw [hx, hc]
    rfl
  · intro hc
    rw [hx, hc, ← branchTarget, ← branchCost_eq]
    rfl

/-- Settles O15: the meanings of the eight branches are branches on their flag. -/
theorem branchesFollowTheirFlag : Obligations.BranchesFollowTheirFlag := by
  unfold Obligations.BranchesFollowTheirFlag
  refine ⟨?_, ?_, ?_, ?_, ?_, ?_, ?_, ?_⟩ <;>
    exact branchesOn_of_meaning (fun _ => rfl) (fun _ => rfl) (fun _ => rfl)

/-! ### JMP (R159, R369) -/

/-- Two states that agree but for reads and time still do so with the same program counter written to both. -/
theorem quiet_setPc {s t : State} (q : Quiet s t) (pc : Address) : Quiet (s.setPc pc) (t.setPc pc) := by
  rw [State.setPc, State.setPc, q.regs]
  exact quiet_regs q _

/-- R369: JMP in the IND form is the read of its target, and then its remaining cycles. -/
theorem exec_jmpInd {w a : Address} {s t : State} (h : resolveIndirect w s = .next (a, t)) :
    exec (.jmpInd w) s = .next (advance (5 + s.sched.branch) (t.setPc a)) := by
  have hj : jumpIndirect w s = .next (t.setPc a) := by rw [jumpIndirect, h, andThen_next]
  obtain ⟨_, hm⟩ := jumpIndirect_moves hj
  exact exec_plain rfl hj hm.aside.branch

/-- Settles O16: the ABS form reads nothing; the IND form is two reads, of which the second starts from a memory that
the first left as it was. -/
theorem jumpsSetTheProgramCounter : Obligations.JumpsSetTheProgramCounter := by
  unfold Obligations.JumpsSetTheProgramCounter
  refine ⟨encoded .jmp, fun w s => ⟨exec_plain rfl rfl rfl, indirectHigh_eq w, fun hs => ?_⟩⟩
  obtain ⟨⟨l, t⟩, hl⟩ := memRead_answers hs .read w
  have ql : Quiet s t := quiet_memRead _ _ _ _ hl
  obtain ⟨⟨h, u⟩, hh⟩ := memRead_answers (hs.quiet ql) .read (indirectHigh w)
  have qh : Quiet s u := ql.trans (quiet_memRead _ _ _ _ hh)
  refine ⟨l, t, h, u, _, hl, hh, exec_jmpInd (memRead16_next hl hh), rfl,
    (quiet_setPc qh _).trans (quiet_advance _ _), fun hr => memRead_memory_value hr hl, fun hr => ?_⟩
  rw [← ql.platform] at hr
  rw [← ql.mem]
  exact memRead_memory_value hr hh

/-! ### JSR (R145, R370, R374) -/

/-- R370: JSR is the push of the return address, and then its remaining cycles. -/
theorem exec_jsr {w : Address} {s t : State} (h : push16 (s.regs.pc - 1) s = .next t) :
    exec (.jsr w) s = .next (advance (6 + s.sched.branch) (t.setPc w)) := by
  have hc : call w s = .next (t.setPc w) := by rw [call, h, andThen_next]
  obtain ⟨_, hm⟩ := call_moves hc
  exact exec_plain rfl hc hm.aside.branch

/-- R145: a word pushed changes no byte but its own two. -/
theorem readByte_pushed_word_other (w : Address) {s : State} {c : Nat} (h1 : c ≠ (stackAddr s.regs.sp).toNat)
    (h2 : c ≠ (stackAddr (s.regs.sp - 1)).toNat) :
    readByte (pushed (lo w) (pushed (hi w) s)).mem c = readByte s.mem c :=
  (readByte_writeByte_other _ h2 _).trans (readByte_writeByte_other _ h1 _)

/-- R145: the two bytes of a word pushed to a canonical memory; the low byte, pushed last, does not reach the high
one. -/
theorem readByte_pushed_word (w : Address) {s : State} (h : Memory.wf s.mem = true) :
    readByte (pushed (lo w) (pushed (hi w) s)).mem (stackAddr s.regs.sp).toNat = hi w ∧
    readByte (pushed (lo w) (pushed (hi w) s)).mem (stackAddr (s.regs.sp - 1)).toNat = lo w := by
  constructor
  · rw [readByte_pushed_other (lo w) s.regs.sp (stack_apart s.regs.sp).1, readByte_pushed_same (hi w) h]
  · exact readByte_pushed_same (s := pushed (hi w) s) (lo w) (wf_writeByte h _ _)

/-- Memory aside, a word pushed and then a jump are a change of S and PC. -/
theorem steady_pushed_word (ret w : Address) (s : State) :
    Steady (s.setControl w (s.regs.sp - 2) s.regs.p) ((pushed (lo ret) (pushed (hi ret) s)).setPc w) := by
  refine ⟨?_, rfl, rfl, rfl, rfl, rfl, rfl, rfl⟩
  rw [← sub_one_sub_one]
  rfl

/-- Settles O17: JSR is the push of a word, which in plain memory succeeds and leaves its two bytes. -/
theorem subroutineCallPushesReturnAddress : Obligations.SubroutineCallPushesReturnAddress := by
  unfold Obligations.SubroutineCallPushesReturnAddress
  refine ⟨encoded .jsr, fun w s => ⟨fun t h => exec_jsr h, fun hs => ?_⟩⟩
  obtain ⟨t, ht, q⟩ := push16_plain (s.regs.pc - 1) hs
  have qu := (quiet_setPc q w).trans (quiet_advance (6 + s.sched.branch) _)
  refine ⟨_, exec_jsr ht, (steady_pushed_word _ w s).trans qu.toSteady, fun c h1 h2 => ?_, fun hwf => ?_⟩
  · rw [qu.mem]
    exact readByte_pushed_word_other _ h1 h2
  · rw [qu.mem]
    exact readByte_pushed_word _ hwf

/-! ### RTS (R371) -/

/-- R371: RTS is the pull of a word, and then its remaining cycles. -/
theorem exec_rts {w : Address} {s t : State} (h : pop16 s = .next (w, t)) :
    exec .rts s = .next (advance (6 + s.sched.branch) (t.setPc (w + 1))) := by
  have hr : returnFromSubroutine s = .next (t.setPc (w + 1)) := by rw [returnFromSubroutine, h, andThen_next]
  exact exec_plain rfl hr (pop16_quiet h).branch

/-- R146: the word pulled is that of memory where both of its bytes are plain memory. -/
theorem pop16_memoryByte {w : Address} {l h : Byte} {s t : State} (hw : pop16 s = .next (w, t))
    (hl : MemoryByte s (stackAddr (s.regs.sp + 1)) l) (hh : MemoryByte s (stackAddr (s.regs.sp + 2)) h) :
    w = pair h l := by
  rw [← hl.2, ← hh.2]
  exact pop16_plain_value hw hl.1 hh.1

/-- Settles O18: RTS around its pull of a word, which moves the stack pointer and nothing else. -/
theorem subroutineReturnAddsOne : Obligations.SubroutineReturnAddsOne := by
  unfold Obligations.SubroutineReturnAddsOne
  refine ⟨encoded .rts, fun s hs => ?_⟩
  obtain ⟨⟨w, t⟩, h⟩ := pop16_answers hs
  exact ⟨w, t, _, h, exec_rts h, rfl, (quiet_setPc (pop16_quiet h) (w + 1)).trans (quiet_advance _ _),
    fun _ _ => pop16_memoryByte h⟩

/-! ### BRK (R36, R372, R374) -/

/-- R372: BRK is the exception with the address after its skipped byte, and then its remaining cycles. -/
theorem exec_brk {s t : State} (h : takeException (s.regs.pc + 1) true s = .next t) :
    exec .brk s = .next (advance (7 + s.sched.branch) t) := by
  obtain ⟨_, _, hm⟩ := takeException_moves h
  exact exec_plain rfl h hm.aside.branch

/-- R372: an exception is the address and then the status pushed, I set, and then the vector read into the program
counter. -/
theorem takeException_next {ret w : Address} {brk : Bool} {s t u x : State} (ht : push16 ret s = .next t)
    (hu : push (packP brk t.regs.p) t = .next u)
    (hx : memRead16 0xFFFE 0xFFFF (u.setP { u.regs.p with i := true }) = .next (w, x)) :
    takeException ret brk s = .next (x.setPc w) := by
  have hv : readVector irqVector (u.setP { u.regs.p with i := true }) = .next (w, x) := hx
  rw [takeException, ht, andThen_next, hu, andThen_next, hv, andThen_next]

/-- R374: a memory that is that of a frame holds the three bytes pushed, and is otherwise as before. -/
theorem pushesFrame_of_framed {s u : State} {ret : Address} {status : Byte}
    (h : u.mem = (framed ret status s).mem) :
    PushesFrame s u ret status := by
  unfold PushesFrame
  rw [h]
  exact ⟨fun _ h1 h2 h3 => framed_other ret status h1 h2 h3, framed_bytes ret status⟩

/-- Memory aside, a frame pushed with its registers written is a change of those registers. -/
theorem steady_framed (ret : Address) (status : Byte) (s : State) (r : Regs) :
    Steady (s.setRegs r) { framed ret status s with regs := r } :=
  ⟨rfl, rfl, rfl, rfl, rfl, rfl, rfl, rfl⟩

/-- Settles O19: BRK is the exception on any platform, which no access moves where none waits, and over a plain stack
leaves its frame. -/
theorem softwareInterruptTakesTheException : Obligations.SoftwareInterruptTakesTheException := by
  unfold Obligations.SoftwareInterruptTakesTheException
  refine ⟨encoded .brk, fun s => ⟨fun t h => ⟨exec_brk h, fun hw => ?_⟩, fun t u w x ht hu hx => ?_, fun hs hp => ?_⟩⟩
  · have hm := unmoved_takeException hw h
    exact ⟨hm.countdown, hm.due⟩
  · exact exec_brk (takeException_next ht hu hx)
  · obtain ⟨t, w, ht, q, hv⟩ := takeException_plain (s.regs.pc + 1) true hs hp
    have qu := q.trans (quiet_advance (7 + s.sched.branch) t)
    refine ⟨_, w, exec_brk ht, (steady_framed _ _ s _).trans qu.toSteady, pushesFrame_of_framed qu.mem,
      fun l h hl hh => ?_⟩
    rw [← hl.2, ← hh.2]
    exact hv hl.1 hh.1

/-! ### RTI (R373) -/

/-- R373: RTI is the pull of the status, the pull of the program counter, and then its remaining cycles. -/
theorem exec_rti {v : Byte} {w : Address} {s t x : State} (hv : pop s = .next (v, t))
    (hw : pop16 (t.setP (unpackP v)) = .next (w, x)) :
    exec .rti s = .next (advance (6 + s.sched.branch) (x.setPc w)) := by
  have hr : returnFromException s = .next (x.setPc w) := by
    rw [returnFromException, hv, andThen_next, hw, andThen_next]
  obtain ⟨_, _, hm⟩ := returnFromException_moves hr
  exact exec_plain rfl hr hm.aside.branch

/-- The pull of a byte, the flags written, and the pull of a word move the registers to those of the statement, and
nothing else but time and what reads do. -/
theorem quiet_pop_pop16 {v : Byte} {w : Address} {p : Flags} {s t x : State} (hv : pop s = .next (v, t))
    (hw : pop16 (t.setP p) = .next (w, x)) : Quiet (s.setControl w (s.regs.sp + 3) p) (x.setPc w) := by
  have q1 : Quiet (s.setSp (s.regs.sp + 1)) t := quiet_pop _ hv
  have q2 := pop16_quiet hw
  have hsp : s.regs.sp + 1 + 2 = s.regs.sp + 3 := by rw [BitVec.add_assoc]; rfl
  have hx : x.setPc w = x.setRegs { s.regs with pc := w, sp := s.regs.sp + 3, p := p } := by
    rw [State.setPc, q2.regs, setSp_regs, setP_regs, q1.regs, setSp_regs, hsp]
    rfl
  rw [hx]
  exact (quiet_regs q1 _).trans (quiet_regs q2 _)

/-- A byte of plain memory is the same after reads and time. -/
theorem MemoryByte.quiet {s t : State} {a : Address} {v : Byte} (h : MemoryByte s a v) (q : Quiet s t) :
    MemoryByte t a v := by
  unfold MemoryByte
  rw [q.platform, q.mem]
  exact h

/-- R373: the word pulled after the status is that of memory where both of its bytes are plain memory. -/
theorem pop_pop16_memoryByte {v l h : Byte} {w : Address} {p : Flags} {s t x : State} (hv : pop s = .next (v, t))
    (hw : pop16 (t.setP p) = .next (w, x)) (hl : MemoryByte s (stackAddr (s.regs.sp + 2)) l)
    (hh : MemoryByte s (stackAddr (s.regs.sp + 3)) h) : w = pair h l := by
  have q : Quiet (s.setSp (s.regs.sp + 1)) t := quiet_pop _ hv
  have hsp (k : Byte) : (t.setP p).regs.sp + k = s.regs.sp + (1 + k) := by
    rw [setP_regs, q.regs, ← BitVec.add_assoc]
    rfl
  have hm {a : Address} {b : Byte} (h : MemoryByte s a b) : MemoryByte (t.setP p) a b :=
    MemoryByte.quiet (s := s.setSp (s.regs.sp + 1)) (t := t) h q
  refine pop16_memoryByte hw ?_ ?_ <;> rw [hsp]
  · exact hm hl
  · exact hm hh

/-- Settles O20: RTI around its two pulls. -/
theorem returnFromInterruptRestores : Obligations.ReturnFromInterruptRestores := by
  unfold Obligations.ReturnFromInterruptRestores
  refine ⟨encoded .rti, fun s hs => ?_⟩
  obtain ⟨⟨v, t⟩, hv⟩ := pop_answers hs
  have ht : Supported t := Supported.quiet (s := s.setSp (s.regs.sp + 1)) hs (quiet_pop _ hv)
  obtain ⟨⟨w, x⟩, hw⟩ := pop16_answers (s := t.setP (unpackP v)) ht
  refine ⟨v, t, w, x, _, hv, hw, exec_rti hv hw, rfl, (quiet_pop_pop16 hv hw).trans (quiet_advance _ _),
    fun q l h hq hl hh => ⟨?_, pop_pop16_memoryByte hv hw hl hh⟩⟩
  rw [← hq.2]
  exact pop_memory_value hq.1 hv

/-! ### The writers of PC (R31, R375) -/

/-- R375: the mnemonics by the shape their meaning has; the shapes of all but the control transfers leave PC. -/
theorem pc_of_leavesRegs {m : Mnemonic} {w : Meaning} {s : State} {q : Regs} (hw : mnemonicShape w m)
    (hq : w.leavesRegs s q) :
    q.pc = s.regs.pc ∨ m ∈ [.bpl, .bmi, .bvc, .bvs, .bcc, .bcs, .bne, .beq, .jmp, .jsr, .rts, .brk, .rti] := by
  cases m
  case bpl | bmi | bvc | bvs | bcc | bcs | bne | beq | jmp | jsr | rts | brk | rti => exact .inr (by decide)
  case lda | ldx | ldy | and | ora | eor | bit | cmp | cpx | cpy =>
    obtain ⟨o, rfl⟩ := hw
    obtain ⟨v, rfl⟩ := hq
    exact .inl rfl
  case adc | sbc =>
    obtain ⟨o, op, rfl⟩ := hw
    obtain ⟨v, rfl | rfl⟩ := hq <;> exact .inl rfl
  case sta | stx | sty =>
    obtain ⟨e, rfl⟩ := hw
    cases hq
    exact .inl rfl
  case inc | dec =>
    obtain ⟨e, rfl⟩ := hw
    obtain ⟨v, rfl⟩ := hq
    exact .inl rfl
  case asl | lsr | rol | ror =>
    obtain rfl | ⟨e, rfl⟩ := hw
    · cases hq
      exact .inl rfl
    · obtain ⟨v, rfl⟩ := hq
      exact .inl rfl
  case tax | tay | txa | tya | tsx | txs | inx | iny | dex | dey | clc | cld | clv | sec | sed | nop =>
    cases hw
    cases hq
    exact .inl rfl
  case cli | sei =>
    cases hw
    obtain ⟨t, ht, rfl⟩ := hq
    cases ht
    exact .inl rfl
  case pha | php =>
    cases hw
    obtain ⟨t, ht, rfl⟩ := hq
    rw [(push_moves ht).regs]
    exact .inl rfl
  case pla =>
    cases hw
    obtain ⟨t, ht, rfl⟩ := hq
    obtain ⟨v, hm⟩ := pullA_moves ht
    rw [hm.regs]
    exact .inl rfl
  case plp =>
    cases hw
    obtain ⟨t, ht, rfl⟩ := hq
    obtain ⟨v, hr, -⟩ := pullP_moves ht
    rw [hr]
    exact .inl rfl

/-- Settles O26: an instruction leaves the registers that its shape does. -/
theorem onlyControlTransfersWriteThePc : Obligations.OnlyControlTransfersWriteThePc := by
  unfold Obligations.OnlyControlTransfersWriteThePc
  exact fun i s u h => pc_of_leavesRegs (meaningOf_shape i) (exec_leavesRegs h)

end Sys2Proof.Machine

/-! The statements about 60_exceptions.md: the interrupt port, the boundary and its service condition, interrupt entry,
the steps that take none, and the completion of every instruction. -/

namespace Sys2Proof.Machine

/-! ### The interrupt port (R410) -/

/-- R410: the source with a number has the bit of that number in `IntStatus`. -/
theorem source_mask_getLsbD {id : Nat} (h : id < 8) (k : Nat) : (1#8 <<< id).getLsbD k = decide (k = id) := by
  rw [← BitVec.twoPow_eq, BitVec.getLsbD_twoPow, decide_eq_true h, Bool.true_and]
  exact decide_eq_decide.mpr eq_comm

/-- R410: a source's bit is written, and every other bit is as it was; there is none beyond the eight. -/
theorem withBits_source {id : Nat} (h : id < 8) (on : Bool) (v : Byte) (k : Nat) :
    (withBits (1#8 <<< id) on v).getLsbD k = if k = id then on else v.getLsbD k := by
  obtain hk | hk := Nat.lt_or_ge k 8
  · rw [withBits_getLsbD _ _ _ hk, source_mask_getLsbD h]
    simp only [decide_eq_true_eq]
  · rw [if_neg (by omega), BitVec.getLsbD_of_ge _ k hk, BitVec.getLsbD_of_ge _ k hk]

/-- R410: the port writes the bit of an external source. -/
theorem portWrite_external {id : Nat} {s : State} (hs : s.fault = none) (h : 2 ≤ id ∧ id ≤ 6) (on : Bool) :
    portWrite id on s = ⟨.ok (), writeSource id on s⟩ :=
  (guarded_running hs _).trans (if_pos (decide_eq_true h))

/-- R410: the port rejects the id of anything else. -/
theorem portWrite_rejects {id : Nat} {s : State} (hs : s.fault = none) (h : ¬(2 ≤ id ∧ id ≤ 6)) (on : Bool) :
    portWrite id on s = callErr (.contractSourceId id) s :=
  (guarded_running hs _).trans (if_neg (by rw [externalSource, decide_eq_true_eq]; exact h))

/-- Settles O44: the port on an external source and on any other id, and the bits that it writes. -/
theorem interruptPortAcceptsExternalSources : Obligations.InterruptPortAcceptsExternalSources := by
  unfold Obligations.InterruptPortAcceptsExternalSources
  refine fun id s hs => ⟨fun h => ?_, fun h => ⟨portWrite_rejects hs h true, portWrite_rejects hs h false⟩,
    guarded_running hs _⟩
  refine ⟨_, _, portWrite_external hs h true, portWrite_external hs h false, fun k => ?_⟩
  rw [withBits_source (by omega), withBits_source (by omega)]
  by_cases hk : k = id <;> simp [hk]

/-! ### The boundary and the service condition (R412, R414) -/

/-- R414: the countdown is running and at or below the threshold. -/
theorem countdownReached_iff {io : Nat} {c : Option Int} :
    countdownReached io c = true ↔ ∃ k, c = some k ∧ k ≤ -2 - (io : Int) := by
  cases c with
  | none => simp [countdownReached]
  | some k =>
    have h : countdownReached io (some k) = true ↔ k ≤ -2 - (io : Int) := decide_eq_true_iff
    simp [h]

/-- R414: the service condition as its four conditions. -/
theorem serviceCondition_iff {s : State} :
    serviceCondition s = true ↔ s.irq.due = true ∧ (s.regs.p.i = false ∨ s.irq.justSet = true) ∧
      (∃ k, s.irq.countdown = some k ∧ k ≤ -2 - (s.sched.io : Int)) ∧ s.irq.justCleared = false := by
  simp only [serviceCondition, Bool.and_eq_true, Bool.or_eq_true, Bool.not_eq_true', countdownReached_iff, and_assoc]

@[simp] theorem markDue_due (s : State) : (markDue s).irq.due = true := by
  unfold markDue
  split
  · assumption
  · rfl

@[simp] theorem markDue_regs (s : State) : (markDue s).regs = s.regs := by unfold markDue; split <;> rfl

@[simp] theorem markDue_justSet (s : State) : (markDue s).irq.justSet = s.irq.justSet := by
  unfold markDue; split <;> rfl

@[simp] theorem markDue_justCleared (s : State) : (markDue s).irq.justCleared = s.irq.justCleared := by
  unfold markDue; split <;> rfl

/-- R412: with no source requesting service the boundary drops the request. -/
theorem interruptBoundary_idle {s : State} (h : s.irq.status = 0) : interruptBoundary s = .next (dropRequest s) :=
  if_pos h

/-- R412: with a source requesting service the boundary marks the request due, and serves it or not. -/
theorem interruptBoundary_request {s : State} (h : s.irq.status ≠ 0) :
    interruptBoundary s = if serviceCondition (markDue s) then irqEntry (markDue s) else .next (markDue s) :=
  if_neg h

/-- Settles O45: the three ends of the boundary, where the request is due because it has been marked so. -/
theorem boundaryFollowsTheServiceCondition : Obligations.BoundaryFollowsTheServiceCondition := by
  unfold Obligations.BoundaryFollowsTheServiceCondition
  refine fun s => ⟨interruptBoundary_idle, fun hstatus m hm => ?_⟩
  have hmark : m = markDue s := hm
  have hdue : m.irq.due = true := by rw [hmark, markDue_due]
  rw [interruptBoundary_request hstatus, ← hmark]
  exact ⟨fun h => if_pos (serviceCondition_iff.mpr ⟨hdue, h⟩),
    fun h => if_neg fun hserved => h (serviceCondition_iff.mp hserved).2⟩

/-! ### Interrupt entry (R415) -/

theorem irqEntry_of_takeException {s t : State} (h : takeException s.regs.pc false (beginEntry s) = .next t) :
    irqEntry s = .next (endEntry (advance 7 t)) := by
  rw [irqEntry, h, andThen_next]
  rfl

theorem endEntry_entry (s : State) : (endEntry s).sched.entry = s.sched.entry := by
  obtain ⟨_, _, _, _, _, _, _, _, _, hentry⟩ := addTotal_same s.sched.entry s
  exact hentry

theorem endEntry_io (s : State) : (endEntry s).sched.io = s.sched.io := by
  obtain ⟨_, _, _, _, _, _, _, _, hio, _⟩ := addTotal_same s.sched.entry s
  exact hio

/-- R199, R200: the total after an increase is a matter of the total before it and of the threshold. -/
theorem addTotal_total_congr {n : Nat} {s t : State} (ht : t.sched.total = s.sched.total)
    (hp : t.platform = s.platform) : (addTotal n t).sched.total = (addTotal n s).sched.total := by
  obtain h | h := Nat.lt_or_ge s.platform.cycleWrap (s.sched.total + n)
  · rw [addTotal_wraps h, addTotal_wraps (by rw [ht, hp]; exact h)]
    simp [ht, hp]
  · rw [addTotal_within h, addTotal_within (by rw [ht, hp]; exact h)]
    simp [ht]

/-- R415: an entry is charged its 7 cycles and its waits. -/
theorem irqEntry_cycles {s u : State} (h : irqEntry s = .next u) : u.sched.entry + s.sched.io = 7 + u.sched.io := by
  obtain ⟨t, ht, rfl⟩ := irqEntry_cases h
  have hc := ((costs_takeException ht).trans (costs_advance irqEntryCycles t)).inside rfl
  rw [endEntry_entry, endEntry_io]
  simp only [beginEntry_sched, irqEntryCycles] at hc ⊢
  omega

/-- R86, R415: on a platform without waits an entry is charged its 7 cycles alone. -/
theorem irqEntry_cycles_noWait {s u : State} (hw : s.platform.ioWait = []) (h : irqEntry s = .next u) :
    u.sched.entry = 7 := by
  obtain ⟨t, ht, rfl⟩ := irqEntry_cases h
  rw [endEntry_entry, advance_sched, (unmoved_takeException (s := beginEntry s) hw ht).sched]
  rfl

/-- R415: an entry adds its own cycles to the total, which nothing before its end touches. -/
theorem irqEntry_total {s u : State} (h : irqEntry s = .next u) :
    u.sched.total = (addTotal u.sched.entry s).sched.total := by
  obtain ⟨t, ht, rfl⟩ := irqEntry_cases h
  obtain ⟨_, _, hm⟩ := takeException_moves ht
  have q := quiet_advance irqEntryCycles t
  rw [endEntry_entry]
  exact addTotal_total_congr (q.total.trans hm.aside.total) (q.platform.trans hm.aside.platform)

/-- R415: an entry makes the countdown `IDLE`, and no timer claims it where none has T1 or T2 enabled. -/
theorem irqEntry_idle {s u : State} (hp : StackPlain 3 s) (h : irqEntry s = .next u) (h0 : s.via0.ier &&& 0x60 = 0)
    (h1 : s.via1.ier &&& 0x60 = 0) : u.irq.countdown = none := by
  obtain ⟨t, ht, rfl⟩ := irqEntry_cases h
  obtain ⟨_, hirq, _⟩ := endEntry_same (advance irqEntryCycles t)
  have hi := (idles_takeException (s := beginEntry s) hp ht).trans (idles_advance irqEntryCycles t)
  rw [hirq]
  exact hi.idle h0 h1 rfl

/-- Settles O46: interrupt entry is the exception between its beginning and its end, which over a plain stack answers
and leaves its frame. -/
theorem interruptEntryTakesTheException : Obligations.InterruptEntryTakesTheException := by
  unfold Obligations.InterruptEntryTakesTheException
  refine ⟨fun s => rfl, fun s hs hp => ?_⟩
  obtain ⟨t, w, ht, q, hv⟩ := takeException_plain (s := beginEntry s) s.regs.pc false hs hp
  have h := irqEntry_of_takeException ht
  have qu := q.trans (quiet_advance 7 t)
  obtain ⟨hregs, hirq, hmem, _⟩ := endEntry_same (advance 7 t)
  refine ⟨_, w, h, hregs.trans qu.regs, ?_, ?_, ?_, irqEntry_instr h, irqEntry_idle hp h,
    fun hw => irqEntry_cycles_noWait hw h, pushesFrame_of_framed (hmem.trans qu.mem), fun l b hl hb => ?_,
    irqEntry_cycles h, irqEntry_total h⟩
  · rw [hirq, qu.due]
    rfl
  · rw [hirq, qu.justSet]
    rfl
  · rw [hirq, qu.justCleared]
    rfl
  · rw [← hl.2, ← hb.2]
    exact hv hl.1 hb.1

/-! ### The steps that take no interrupt (R414, R417, R521) -/

/-- R414: the completion of an instruction charges an entry only where the service condition holds, which is about I and
its markers as the instruction left them. -/
theorem complete_entry_served {u x : State} (h : complete u = .next x) (he : x.sched.entry ≠ u.sched.entry) :
    (u.regs.p.i = false ∨ u.irq.justSet = true) ∧ u.irq.justCleared = false := by
  obtain ⟨hregs, hirq, _⟩ := addTotal_same u.sched.instr u
  have hserved : serviceCondition (markDue (addTotal u.sched.instr u)) = true := by
    by_contra hno
    exact he ((complete_sched h).2 (.inl (Bool.eq_false_iff.mpr hno)))
  obtain ⟨-, hmask, -, hcleared⟩ := serviceCondition_iff.mp hserved
  rw [markDue_regs, markDue_justSet, hregs, hirq] at hmask
  rw [markDue_justCleared, hirq] at hcleared
  exact ⟨hmask, hcleared⟩

/-- R343, R417: an instruction that begins with I set and its marker clear does not set the marker. -/
theorem exec_justSet_false {i : Instr} {t u : State} (h : exec i t = .next u) (hm : t.irq.justSet = false)
    (hi : t.regs.p.i = true) : u.irq.justSet = false := by
  obtain ⟨htracked, hother⟩ := onlyTrackedInstructionsSetTheMarkers i t u h
  by_cases hin : i.mnemonic ∈ [.sei, .cli, .plp]
  · rw [(htracked hin).1, hi]
    rfl
  · rw [(hother hin).1, hm]

/-- Settles O47: an entry was served, so I was clear or was set by the instruction, which an instruction that begins
with I set does not do. -/
theorem maskedBlockTakesNoInterrupt : Obligations.MaskedBlockTakesNoInterrupt := by
  unfold Obligations.MaskedBlockTakesNoInterrupt
  intro s t u x i hs hf hu hx he
  have hcomplete : complete u = .next x := by
    rw [← hx, step_of_fetchInstr hs hf, hu, andThen_next]
  rw [← exec_entry_zero hf hu] at he
  obtain ⟨hmask, hcleared⟩ := complete_entry_served hcomplete he
  refine ⟨hmask, hcleared, fun ⟨hbegins, hends⟩ => ?_⟩
  have hset : u.irq.justSet = false := exec_justSet_false hu (fetchInstr_costs hf).2.1 hbegins
  rw [hset, hends] at hmask
  simp at hmask

/-! ### The completion of every instruction (R402, R405, R485, R487) -/

/-- A sequence answers where its first part does, and its second does after it. -/
theorem andThen_answers {σ τ : Type} {o : Host.Outcome σ Fault Refusal} {k : σ → Host.Outcome τ Fault Refusal}
    (ho : ∃ x, o = .next x) (hk : ∀ x, o = .next x → ∃ y, k x = .next y) : ∃ y, andThen o k = .next y := by
  obtain ⟨x, rfl⟩ := ho
  exact hk x rfl

theorem returnFromException_answers {s : State} (h : Supported s) : ∃ t, returnFromException s = .next t :=
  andThen_answers (pop_answers h) fun v hv => by
    have hq : Supported v.2 := Supported.quiet (s := s.setSp (s.regs.sp + 1)) h (quiet_pop v hv)
    exact andThen_answers (pop16_answers (s := v.2.setP (unpackP v.1)) hq) fun _ _ => ⟨_, rfl⟩

/-- R405: every effect of its own answers: what is pulled or read may be in a timer's window, what is pushed is not. -/
theorem plain_answers {i : Instr} {f : State → Result} (hi : meaningOf i = .plain f) {s : State} (hs : Supported s)
    (hp : StackPlain 3 s) : ∃ t, f s = .next t := by
  rcases plain_cases i f hi with rfl | rfl | rfl | rfl | ⟨b, rfl⟩ | rfl | rfl | rfl | ⟨w, rfl⟩ | ⟨w, rfl⟩ | ⟨w, rfl⟩
  · exact push_answers hs _
  · exact push_answers hs _
  · exact andThen_answers (pop_answers hs) fun _ _ => ⟨_, rfl⟩
  · exact andThen_answers (pop_answers hs) fun _ _ => ⟨_, rfl⟩
  · exact ⟨_, rfl⟩
  · exact andThen_answers (pop16_answers hs) fun _ _ => ⟨_, rfl⟩
  · obtain ⟨t, _, ht, _⟩ := takeException_plain (s.regs.pc + 1) true hs hp
    exact ⟨t, ht⟩
  · exact returnFromException_answers hs
  · exact ⟨_, rfl⟩
  · exact andThen_answers (memRead16_answers hs _ _) fun _ _ => ⟨_, rfl⟩
  · obtain ⟨t, ht, _⟩ := push16_plain (s.regs.pc - 1) hp.mono
    exact andThen_answers ⟨t, ht⟩ fun _ _ => ⟨_, rfl⟩

/-- R402: the effect of ADC and SBC answers while D is clear. -/
theorem arith_answers {i : Instr} {o : Operand} {f : Byte → State → Result} (hi : meaningOf i = .arith o f) (v : Byte)
    {t : State} (hd : t.regs.p.d = false) : ∃ u, f v t = .next u := by
  obtain ⟨op, _, rfl | rfl⟩ := arith_opcode i o f hi
  · exact ⟨_, adc_binary op v hd⟩
  · exact ⟨_, sbc_binary op v hd⟩

/-- R405: an instruction completes, by the shape of its meaning: each of its accesses answers, from a state that is
still in supported modes, and the remaining cycles always pass. -/
theorem exec_answers (i : Instr) {s : State} (hs : Supported s) (hd : s.regs.p.d = false) (hp : StackPlain 3 s) :
    ∃ u, exec i s = .next u := by
  rw [exec_eq]
  cases hi : meaningOf i with
  | read o f => exact andThen_answers (load_answers hs _ o) fun _ _ => ⟨_, rfl⟩
  | arith o f =>
    refine andThen_answers (load_answers hs _ o) fun r hr => ?_
    have hdr : r.2.regs.p.d = false := by rw [(quiet_load _ _ _ r hr).regs, hd]
    exact andThen_answers (arith_answers hi r.1 hdr) fun _ _ => ⟨_, rfl⟩
  | write m f =>
    refine andThen_answers (resolve_answers hs m) fun r hr => ?_
    exact andThen_answers (gatedWrite_answers (hs.quiet (quiet_resolve m s r hr)) _ _ _) fun _ _ => ⟨_, rfl⟩
  | modify m f =>
    refine andThen_answers (resolve_answers hs m) fun r hr => ?_
    have hr' : Supported r.2 := hs.quiet (quiet_resolve m s r hr)
    refine andThen_answers (gatedRead_answers hr' _ _) fun q hq => ?_
    have hq' : Supported q.2 := hr'.quiet (quiet_gatedRead _ _ _ q hq)
    exact andThen_answers (gatedWrite_answers hq' _ _ _) fun _ _ => ⟨_, rfl⟩
  | regs f => exact ⟨_, rfl⟩
  | branch d c => exact ⟨_, rfl⟩
  | plain f => exact andThen_answers (plain_answers hi hs hp) fun _ _ => ⟨_, rfl⟩

/-- Settles O29: every shape of meaning answers, and nothing refuses. -/
theorem everyInstructionCompletes : Obligations.EveryInstructionCompletes := by
  unfold Obligations.EveryInstructionCompletes
  exact ⟨fun i _ => exec_answers i, neverRefuses_exec, neverRefuses_step⟩

end Sys2Proof.Machine

/-! The statements about 61_timer_peripheral.md: the invariant that the lines of the timers are part of, their
registers and control lines, their expiry and their counting. -/

namespace Sys2Proof.Machine

/-! ### The invariant of a step (R404, R412, R418, R493) -/

/-- What every part of a step keeps of the invariant: all of it but the end of an entry and the absence of a fault. -/
structure Sound (s : State) : Prop where
  lines  : Lines s
  memory : Memory.wf s.mem = true
  due    : s.irq.due = true → s.irq.countdown ≠ none

theorem Inv.sound {s : State} (h : Inv s) : Sound s := ⟨⟨h.line0, h.line1, h.nmi⟩, h.memory, h.due⟩

theorem Sound.inv {s : State} (h : Sound s) (he : s.sched.inEntry = false) (hf : s.fault = none) : Inv s :=
  ⟨h.memory, h.lines.line0, h.lines.line1, h.lines.nmi, h.due, he, hf⟩

theorem Sound.keeps {s t : State} (h : Sound s) (k : Keeps s t) (hd : t.irq.due = s.irq.due) : Sound t :=
  ⟨k.lines h.lines, k.wf h.memory, fun ht => k.countdown (h.due (hd ▸ ht))⟩

/-- A block without a request due needs no countdown. -/
theorem Sound.keeps_idle {s t : State} (h : Sound s) (k : Keeps s t) (hd : t.irq.due = false) : Sound t :=
  ⟨k.lines h.lines, k.wf h.memory, fun ht => by rw [hd] at ht; cases ht⟩

theorem Sound.dropRequest {s : State} (h : Sound s) : Sound (dropRequest s) :=
  ⟨⟨h.lines.line0, h.lines.line1, h.lines.nmi⟩, h.memory, nofun⟩

theorem Sound.beginEntry {s : State} (h : Sound s) : Sound (beginEntry s) :=
  ⟨⟨h.lines.line0, h.lines.line1, h.lines.nmi⟩, h.memory, nofun⟩

theorem Sound.markDue {s : State} (h : Sound s) : Sound (markDue s) := by
  obtain ⟨_, _, hstatus, hmem, h0, h1, _, _, hcount, _⟩ := markDue_same s h.due
  refine ⟨⟨?_, ?_, ?_⟩, ?_, fun _ => hcount⟩
  · rw [hstatus, h0, h.lines.line0]
  · rw [hstatus, h1, h.lines.line1]
  · rw [hstatus, h.lines.nmi]
  · rw [hmem, h.memory]

theorem Sound.addTotal {s : State} (h : Sound s) (n : Nat) : Sound (addTotal n s) := by
  obtain ⟨_, hirq, _⟩ := addTotal_same n s
  exact h.keeps (keeps_addTotal n s) (by rw [hirq])

theorem Sound.endEntry {s : State} (h : Sound s) : Sound (endEntry s) := by
  obtain ⟨_, hirq, hmem, h0, h1, _⟩ := endEntry_same s
  exact h.keeps (Keeps.of_same h0 h1 (by rw [hirq]) (by rw [hirq]) hmem) (by rw [hirq])

/-- R415: an entry leaves no request due and no entry running. -/
theorem irqEntry_sound {s t : State} (h : irqEntry s = .next t) (hs : Sound s) :
    Sound t ∧ t.sched.inEntry = false ∧ t.irq.due = false ∧ t.platform = s.platform := by
  obtain ⟨u, hu, rfl⟩ := irqEntry_cases h
  obtain ⟨_, _, hm⟩ := takeException_moves hu
  obtain ⟨_, hirq, _, _, _, hplat, hentry⟩ := endEntry_same (advance irqEntryCycles u)
  have q := quiet_advance irqEntryCycles u
  have hdue : (advance irqEntryCycles u).irq.due = false := q.due.trans hm.aside.due
  have hk := (keeps_takeException hu).trans (keeps_advance irqEntryCycles u)
  exact ⟨(hs.beginEntry.keeps_idle hk hdue).endEntry, hentry, by rw [hirq, hdue],
    hplat.trans (q.platform.trans hm.aside.platform)⟩

/-- R412: each of the three ends of an instruction leaves a sound block, and a request due only with a source set. -/
theorem complete_inv {u t : State} (h : complete u = .next t) (hs : Sound u) (he : u.sched.inEntry = false) :
    Inv t ∧ t.platform = u.platform ∧ (t.irq.due = true → t.irq.status ≠ 0) := by
  obtain ⟨_, _, _, _, _, hplat, hentry, _⟩ := addTotal_same u.sched.instr u
  have ha := hs.addTotal u.sched.instr
  rw [he] at hentry
  obtain ⟨hf, rfl | ⟨hstatus, rfl | ⟨-, hx⟩⟩⟩ := complete_cases h
  · exact ⟨ha.dropRequest.inv hentry hf, hplat, nofun⟩
  · obtain ⟨_, hsched, hst, _, _, _, hp, _⟩ := markDue_same _ ha.due
    exact ⟨ha.markDue.inv (by rw [hsched, hentry]) hf, hp.trans hplat, fun _ => by rwa [hst]⟩
  · obtain ⟨_, _, _, _, _, _, hp, _⟩ := markDue_same _ ha.due
    obtain ⟨hsound, hin, hdue, hpe⟩ := irqEntry_sound hx ha.markDue
    exact ⟨hsound.inv hin hf, hpe.trans (hp.trans hplat), fun hd => by rw [hdue] at hd; cases hd⟩

/-- Settles O35: the fetch and the instruction keep what they are told to keep, and the completion brings the rest. -/
theorem stepKeepsTheInvariant : Obligations.StepKeepsTheInvariant := by
  unfold Obligations.StepKeepsTheInvariant
  intro s t hinv h
  obtain ⟨-, i, x, u, hx, hu, ht⟩ := step_next h
  obtain ⟨kx, bx⟩ := fetchInstr_keeps hx
  have bu := bx.trans (beside_exec hu)
  have kb : Keeps s (beginInstr s) := Keeps.of_same rfl rfl rfl rfl rfl
  have hs : Sound u := hinv.sound.keeps (kb.trans (kx.trans (keeps_exec hu))) bu.due
  obtain ⟨hi, hp, hd⟩ := complete_inv ht hs bu.inEntry
  exact ⟨hi, hp.trans bu.platform, hd⟩

/-! ### The registers (R461 to R469, R485, R487) -/

/-- R497: no register of a timer has an offset above 15. -/
theorem timerRead_beyond (i : TimerId) {off : Nat} (h : 15 < off) (s : State) :
    timerRead i off s = raise (.contractTimerOffset (timerNumber i) off) s := by
  obtain ⟨k, rfl⟩ : ∃ k, off = k + 16 := ⟨off - 16, by omega⟩
  rfl

theorem timerWrite_beyond (i : TimerId) {off : Nat} (h : 15 < off) (v : Byte) (s : State) :
    timerWrite i off v s = raise (.contractTimerOffset (timerNumber i) off) s := by
  obtain ⟨k, rfl⟩ : ∃ k, off = k + 16 := ⟨off - 16, by omega⟩
  rfl

theorem handshakeControl_false {c : BitVec 3} (h : ¬(c = 4 ∨ c = 5)) : handshakeControl c = false := decide_eq_false h

theorem handshakeControl_true {c : BitVec 3} (h : c = 4 ∨ c = 5) : handshakeControl c = true := decide_eq_true h

/-- R464: the flags of port A that an access of it clears. -/
theorem accessPortA_next {i : TimerId} {s : State} (h : ¬((s.via i).ca2Control = 4 ∨ (s.via i).ca2Control = 5)) :
    accessPortA i s = .next (updateVia i Via.clearFlagsA s) :=
  if_neg (by simp [handshakeControl_false h])

theorem accessPortB_next {i : TimerId} {s : State} (h : ¬((s.via i).cb2Control = 4 ∨ (s.via i).cb2Control = 5)) :
    accessPortB i s = .next (updateVia i Via.clearFlagsB s) :=
  if_neg (by simp [handshakeControl_false h])

theorem accessSR_next {i : TimerId} {s : State} (h : (s.via i).shiftMode = 0) :
    accessSR i s = .next (updateVia i (fun v => { v with ifr := v.ifr &&& ~~~srBit }) s) :=
  if_neg (not_not.mpr h)

theorem accessPortA_raise {i : TimerId} {s : State} (h : (s.via i).ca2Control = 4 ∨ (s.via i).ca2Control = 5) :
    accessPortA i s = raise (.unsupportedHandshake i 1) s :=
  if_pos (handshakeControl_true h)

theorem accessPortB_raise {i : TimerId} {s : State} (h : (s.via i).cb2Control = 4 ∨ (s.via i).cb2Control = 5) :
    accessPortB i s = raise (.unsupportedHandshake i 0) s :=
  if_pos (handshakeControl_true h)

theorem accessSR_raise {i : TimerId} {s : State} (h : (s.via i).shiftMode ≠ 0) :
    accessSR i s = raise (.unsupportedShiftRegister i 10) s :=
  if_pos h

/-- R464: the mask of port A, whose CA2 flag an access leaves in the independent modes. -/
theorem clearFlagsA_eq (v : Via) :
    v.clearFlagsA = { v with ifr := v.ifr &&& ~~~(if v.ca2Control = 1 ∨ v.ca2Control = 3 then 0x02 else 0x03) } := by
  unfold Via.clearFlagsA independentControl
  simp only [decide_eq_true_eq]
  rfl

theorem clearFlagsB_eq (v : Via) :
    v.clearFlagsB = { v with ifr := v.ifr &&& ~~~(if v.cb2Control = 1 ∨ v.cb2Control = 3 then 0x10 else 0x18) } := by
  unfold Via.clearFlagsB independentControl
  simp only [decide_eq_true_eq]
  rfl

/-- R493: a change of fields that the line does not depend on may come before the line update or after it. -/
theorem setVia_updateVia (i : TimerId) (f : Via → Via) (s : State) {g : Via → Via} (h : ∀ u, (g u).top = u.top) :
    (updateVia i f s).setVia i (g ((updateVia i f s).via i)) = updateVia i (fun u => g (f u)) s := by
  rw [updateVia_via]
  cases i <;> simp [updateVia, lineUpdate, State.setVia, State.via, h]

/-- Settles O48: a register at a time, those with a mode by their access in the supported modes. -/
theorem timerRegistersRead : Obligations.TimerRegistersRead := by
  unfold Obligations.TimerRegistersRead
  intro i s
  dsimp only
  refine ⟨fun h => ?_, fun h => ?_, rfl, rfl, rfl, rfl, rfl, rfl, rfl, rfl, fun h => ?_, rfl, rfl, ⟨_, rfl, ?_⟩,
    ⟨_, rfl, ?_⟩, rfl, fun off h hs => ?_⟩
  · rw [timerRead, accessPortB_next h, andThen_next, updateVia, clearFlagsB_eq, portInB_eq]
    rfl
  · rw [timerRead, accessPortA_next h, andThen_next, updateVia, clearFlagsA_eq]
    rfl
  · rw [timerRead, accessSR_next h]
    rfl
  · exact topBit_append _ _
  · exact topBit_append _ _
  · rw [timerRead_beyond i h, raise_running _ hs]

/-- R466: a load of T1, with the output forced low as the statements write it. -/
theorem loadT1_eq (v : Via) :
    v.loadT1 = { v with
      t1c := 2 * (v.t1l.toNat : Int) + 1, t1Fired := false, ifr := v.ifr &&& 0x3F,
      t1Out := v.t1Out && !v.acr.getLsbD 7 } := by
  have hout : (if v.acr.getLsbD 7 then false else v.t1Out) = (v.t1Out && !v.acr.getLsbD 7) := by
    cases v.acr.getLsbD 7 <;> simp
  rw [← hout]
  rfl

/-- Settles O49: a register at a time, those with a mode by their access in the supported modes. -/
theorem timerRegistersWrite : Obligations.TimerRegistersWrite := by
  unfold Obligations.TimerRegistersWrite
  intro i v s
  dsimp only
  refine ⟨fun h => ?_, fun h => ?_, rfl, rfl, rfl, ?_, rfl, rfl, rfl, rfl, fun h => ?_, rfl, rfl, rfl, rfl, rfl,
    fun off h hs => ?_⟩
  · rw [timerWrite, accessPortB_next h, andThen_next,
      setVia_updateVia i _ s (g := fun u => { u with orb := v }) fun _ => rfl, updateVia, clearFlagsB_eq]
  · rw [timerWrite, accessPortA_next h, andThen_next,
      setVia_updateVia i _ s (g := fun u => { u with ora := v }) fun _ => rfl, updateVia, clearFlagsA_eq]
  · rw [timerWrite, updateVia, loadT1_eq]
  · rw [timerWrite, accessSR_next h, andThen_next,
      setVia_updateVia i _ s (g := fun u => { u with sr := v }) fun _ => rfl]
    rfl
  · rw [timerWrite_beyond i h, raise_running _ hs]

/-- R403, R404: an access that raises answers nothing else. -/
theorem access_raises {τ : Type} {o : Result} {e : Fault} {s : State} (hs : s.fault = none) (h : o = raise e s)
    (k : State → Host.Outcome τ Fault Refusal) : andThen o k = .fault e := by
  rw [h, andThen_raise, raise_running _ hs]

/-- Settles O50: the raises of the three accesses in the modes that fail; the other writes answer in every mode. -/
theorem unsupportedTimerModesFail : Obligations.UnsupportedTimerModesFail := by
  unfold Obligations.UnsupportedTimerModesFail
  refine fun i v s hs => ⟨fun h => ?_, fun h => ?_, fun h => ?_, ⟨_, rfl⟩, ⟨_, rfl⟩, ⟨_, rfl⟩, ⟨_, _, rfl⟩⟩
  · exact ⟨access_raises hs (accessSR_raise h) _, access_raises hs (accessSR_raise h) _⟩
  · exact ⟨access_raises hs (accessPortA_raise h) _, access_raises hs (accessPortA_raise h) _⟩
  · exact ⟨access_raises hs (accessPortB_raise h) _, access_raises hs (accessPortB_raise h) _⟩

/-! ### Control lines (R490, R491) -/

/-- R491: a flag that the mode of a line may hold back. -/
theorem or_held (x m : BitVec 7) (b : Bool) : (x ||| if b then 0 else m) = if b then x else x ||| m := by
  cases b
  · rfl
  · exact BitVec.or_zero

/-- R459: the two fixed-level modes among the eight, 111 for high and 110 for low. -/
theorem fixedLevel_iff : ∀ c : BitVec 3,
    ((if c.getLsbD 2 && c.getLsbD 1 then some (c.getLsbD 0) else none) = some true ↔ c = 7) ∧
    ((if c.getLsbD 2 && c.getLsbD 1 then some (c.getLsbD 0) else none) = some false ↔ c = 6) := by
  decide

/-- R490: the output on CA2 is a matter of the three bits of its control. -/
theorem ca2Out_eq (v : Via) : v.ca2Out =
    if v.ca2Control.getLsbD 2 && v.ca2Control.getLsbD 1 then some (v.ca2Control.getLsbD 0) else none := by
  simp only [Via.ca2Out, Via.ca2Control, BitVec.getLsbD_extractLsb']
  rfl

theorem cb2Out_eq (v : Via) : v.cb2Out =
    if v.cb2Control.getLsbD 2 && v.cb2Control.getLsbD 1 then some (v.cb2Control.getLsbD 0) else none := by
  simp only [Via.cb2Out, Via.cb2Control, BitVec.getLsbD_extractLsb']
  rfl

/-- Settles O54: the flag of each line, the two of the second lines held back in the output modes, and the levels by
their control. -/
theorem controlLinesSetFlags : Obligations.ControlLinesSetFlags := by
  unfold Obligations.ControlLinesSetFlags
  refine fun i s => ⟨rfl, rfl, ?_, ?_, fun v => ?_⟩
  · simp only [signalControlLine, Via.signalBit, or_held]
    rfl
  · simp only [signalControlLine, Via.signalBit, or_held]
    rfl
  · obtain ⟨hhighA, hlowA⟩ := fixedLevel_iff v.ca2Control
    obtain ⟨hhighB, hlowB⟩ := fixedLevel_iff v.cb2Control
    rw [ca2Out_eq, cb2Out_eq]
    exact ⟨hhighA, hlowA, hhighB, hlowB⟩

/-! ### Direct calls (R497) -/

theorem timerOfNumber_eq_some {n : Nat} {i : TimerId} (h : timerOfNumber n = some i) : timerNumber i = n ∧ n ≤ 1 := by
  unfold timerOfNumber at h
  split at h <;> cases h <;> exact ⟨rfl, by decide⟩

/-- Settles O55: a number that names no timer, and an offset that names no register of one. -/
theorem directTimerCallsCheckTheirArguments : Obligations.DirectTimerCallsCheckTheirArguments := by
  unfold Obligations.DirectTimerCallsCheckTheirArguments
  refine ⟨fun n off v s hs h => ?_, fun p a i off => route_offset⟩
  rw [timerReadCall, timerWriteCall, guarded_running hs, guarded_running hs]
  cases hn : timerOfNumber n with
  | none => exact ⟨rfl, rfl⟩
  | some i =>
    obtain ⟨hi, hle⟩ := timerOfNumber_eq_some hn
    have ho : 15 < off := by omega
    dsimp only
    rw [timerRead_beyond i ho, timerWrite_beyond i ho, andThen_raise, raise_running _ hs, raise_running _ hs, hi]
    exact ⟨rfl, rfl⟩

/-! ### Expiry (R476, R477, R482, R483) -/

/-- R476, R482, R493: what an expiry leaves of the controller: the line of the timer that has expired, and the countdown
claimed where it was `IDLE` and the interrupt is enabled. -/
theorem claim_updateVia_irq (e : Bool) (c : Int) (i : TimerId) (f : Via → Via) (s : State) :
    (claim e c (updateVia i f s)).irq.status.getLsbD (timerNumber i) = (f (s.via i)).top ∧
    (claim e c (updateVia i f s)).irq.countdown =
      if e = true ∧ s.irq.countdown = none then some (3 + c) else s.irq.countdown := by
  obtain ⟨_, _, _, _, _, hstatus, hcount⟩ := claim_same e c (updateVia i f s)
  have hirq : (updateVia i f s).irq =
      { s.irq with status := withBits (lineMask i) (f (s.via i)).top s.irq.status } := by
    simp [updateVia]
  rw [hstatus, hcount, hirq]
  exact ⟨line_bit i _ _, rfl⟩

@[simp] theorem claim_via (e : Bool) (c : Int) (s : State) (i : TimerId) : (claim e c s).via i = s.via i := by
  obtain ⟨_, _, _, hvia, _⟩ := claim_same e c s
  exact hvia i

theorem t1Expires_iff (v : Via) : v.t1Expires = true ↔ v.t1c < -2 ∧ (v.t1Fired = false ∨ v.freeRun = true) := by
  simp [Via.t1Expires]

theorem t2Expires_iff (v : Via) : v.t2Expires = true ↔ v.t2c < -2 ∧ v.t2Fired = false := by
  simp [Via.t2Expires]

theorem t1Reloads_iff (v : Via) : v.t1Reloads = true ↔ v.t1c < -3 ∧ v.freeRun = true := by
  simp [Via.t1Reloads]

theorem t1Fire_expires {i : TimerId} {s : State} (h : (s.via i).t1Expires = true) :
    t1Fire i s = claim ((s.via i).ier.getLsbD 6) (s.via i).t1c (updateVia i Via.t1Expire s) := by
  rw [t1Fire, if_pos h, t1Bit_enabled]

theorem t1Fire_waits {i : TimerId} {s : State} (h : ¬(s.via i).t1Expires = true) : t1Fire i s = s := if_neg h

theorem t2Fire_expires {i : TimerId} {s : State} (h : (s.via i).t2Expires = true) :
    t2Fire i s = claim ((s.via i).ier.getLsbD 5) (s.via i).t2c (updateVia i Via.t2Expire s) := by
  rw [t2Fire, if_pos h, t2Bit_enabled]

theorem t2Fire_waits {i : TimerId} {s : State} (h : ¬(s.via i).t2Expires = true) : t2Fire i s = s := if_neg h

theorem t1Fire_via (i : TimerId) (s : State) :
    (t1Fire i s).via i = if (s.via i).t1Expires then (s.via i).t1Expire else s.via i := by
  by_cases h : (s.via i).t1Expires = true
  · rw [t1Fire_expires h, claim_via, updateVia_via, if_pos h]
  · rw [t1Fire_waits h, if_neg h]

theorem t2Fire_via (i : TimerId) (s : State) :
    (t2Fire i s).via i = if (s.via i).t2Expires then (s.via i).t2Expire else s.via i := by
  by_cases h : (s.via i).t2Expires = true
  · rw [t2Fire_expires h, claim_via, updateVia_via, if_pos h]
  · rw [t2Fire_waits h, if_neg h]

/-- R476: the two halves of a poll; the reload touches the peripheral alone. -/
theorem t1Poll_eq (i : TimerId) (s : State) :
    (t1Poll i s).irq = (t1Fire i s).irq ∧
    (t1Poll i s).via i =
      if ((t1Fire i s).via i).t1Reloads then ((t1Fire i s).via i).t1Reload else (t1Fire i s).via i := by
  unfold t1Poll
  dsimp only
  split <;> simp

theorem t2Poll_eq (i : TimerId) (s : State) :
    (t2Poll i s).irq = (t2Fire i s).irq ∧
    (t2Poll i s).via i =
      if ((t2Fire i s).via i).t2c < -3 then ((t2Fire i s).via i).t2Wrap else (t2Fire i s).via i := by
  unfold t2Poll
  dsimp only
  split <;> simp

/-- R476: a poll does nothing before the counter has passed -2, and nothing in one-shot mode once T1 has fired. -/
theorem t1Poll_waits {i : TimerId} {s : State}
    (h : -2 ≤ (s.via i).t1c ∨ (s.via i).t1Fired = true ∧ (s.via i).freeRun = false) : t1Poll i s = s := by
  have hexpires : ¬(s.via i).t1Expires = true := by
    rw [t1Expires_iff]
    rintro ⟨hc, hf⟩
    obtain h | ⟨h1, h2⟩ := h
    · omega
    · simp [h1, h2] at hf
  have hreloads : ¬(s.via i).t1Reloads = true := by
    rw [t1Reloads_iff]
    rintro ⟨hc, hf⟩
    obtain h | ⟨_, h2⟩ := h
    · omega
    · simp [h2] at hf
  rw [t1Poll, t1Fire_waits hexpires]
  exact if_neg hreloads

/-- R482: a poll does nothing before the counter has passed -2. -/
theorem t2Poll_waits {i : TimerId} {s : State} (h : -2 ≤ (s.via i).t2c) : t2Poll i s = s := by
  have hexpires : ¬(s.via i).t2Expires = true := by
    rw [t2Expires_iff]
    omega
  rw [t2Poll, t2Fire_waits hexpires]
  exact if_neg (by omega)

/-- R476: a toggle of T1's output, where ACR bit 7 gives it one. -/
theorem t1Expire_t1Out (v : Via) : v.t1Expire.t1Out = (v.t1Out != v.acr.getLsbD 7) := by
  unfold Via.t1Expire Via.pulseOutput
  cases v.acr.getLsbD 7 <;> simp

/-- R476, R477: the peripheral after an expiry of T1: below -3 in free-run it has been reloaded as well. -/
theorem t1Poll_via_expired {i : TimerId} {s : State} (h : (s.via i).t1Expires = true) :
    (t1Poll i s).via i =
      { (s.via i).t1Expire with
        t1c := if (s.via i).t1c < -3 ∧ (s.via i).freeRun = true then
            (s.via i).t1c + 2 * ((s.via i).t1l.toNat : Int) + 4 else (s.via i).t1c
        t1Fired := !(decide ((s.via i).t1c < -3) && (s.via i).freeRun) } := by
  obtain ⟨_, hvia⟩ := t1Poll_eq i s
  rw [t1Fire_via, if_pos h] at hvia
  have hreloads : (s.via i).t1Expire.t1Reloads = (s.via i).t1Reloads := rfl
  rw [hvia, hreloads]
  by_cases hr : (s.via i).t1Reloads = true
  · have hr' : (decide ((s.via i).t1c < -3) && (s.via i).freeRun) = true := hr
    rw [if_pos hr, if_pos ((t1Reloads_iff _).mp hr), hr']
    rfl
  · have hr' : (decide ((s.via i).t1c < -3) && (s.via i).freeRun) = false := Bool.eq_false_iff.mpr hr
    rw [if_neg hr, if_neg (mt (t1Reloads_iff _).mpr hr), hr']
    rfl

/-- Settles O51: the polls that do nothing, and an expiry by what it leaves of the peripheral and of the controller. -/
theorem timerOneExpires : Obligations.TimerOneExpires := by
  unfold Obligations.TimerOneExpires
  refine fun i s => ⟨fun h => t1Poll_waits (.inl h), fun hf ha => t1Poll_waits (.inr ⟨hf, ha⟩), fun hc hf => ?_⟩
  have hexpires : (s.via i).t1Expires = true := (t1Expires_iff _).mpr ⟨hc, hf⟩
  have q := quiet_t1Poll i s
  obtain ⟨hirq, _⟩ := t1Poll_eq i s
  rw [t1Fire_expires hexpires] at hirq
  obtain ⟨hline, hcount⟩ := claim_updateVia_irq ((s.via i).ier.getLsbD 6) (s.via i).t1c i Via.t1Expire s
  dsimp only
  rw [t1Poll_via_expired hexpires, hirq, hline, hcount]
  exact ⟨q.regs, q.mem, t1Poll_sched i s, hirq ▸ q.due, rfl, t1Expire_t1Out _, rfl, rfl, rfl, rfl⟩

/-- R482, R483: the peripheral after a poll of T2 whose counter has passed -2: fired, and below -3 wrapped. -/
theorem t2Poll_via_passed {i : TimerId} {s : State} (h : (s.via i).t2c < -2) :
    ((t2Poll i s).via i).t2Fired = true ∧
    ((t2Poll i s).via i).t2c = (if (s.via i).t2c < -3 then (s.via i).t2c + t2WrapAdd else (s.via i).t2c) ∧
    ((t2Poll i s).via i).ifr = if (s.via i).t2Fired then (s.via i).ifr else (s.via i).ifr ||| t2Bit := by
  obtain ⟨_, hvia⟩ := t2Poll_eq i s
  have hfire : ((t2Fire i s).via i).t2Fired = true ∧ ((t2Fire i s).via i).t2c = (s.via i).t2c ∧
      ((t2Fire i s).via i).ifr = if (s.via i).t2Fired then (s.via i).ifr else (s.via i).ifr ||| t2Bit := by
    rw [t2Fire_via]
    cases hf : (s.via i).t2Fired <;> simp [t2Expires_iff, h, hf, Via.t2Expire]
  obtain ⟨hfired, hcounter, hflag⟩ := hfire
  rw [hvia, hcounter]
  split
  · exact ⟨hfired, by rw [Via.t2Wrap, hcounter], hflag⟩
  · exact ⟨hfired, hcounter, hflag⟩

/-- Settles O52: the polls that do nothing, and those past -2 by whether T2 has fired before. -/
theorem timerTwoExpiresOnce : Obligations.TimerTwoExpiresOnce := by
  unfold Obligations.TimerTwoExpiresOnce
  refine fun i s => ⟨t2Poll_waits, fun hc => ?_⟩
  obtain ⟨hirq, _⟩ := t2Poll_eq i s
  obtain ⟨hfired, hcounter, hflag⟩ := t2Poll_via_passed hc
  refine ⟨hfired, hcounter, fun hf => ⟨hflag.trans (if_pos hf), ?_⟩,
    fun hf => ⟨hflag.trans (if_neg (by simp [hf])), ?_⟩⟩
  · rw [hirq, t2Fire_waits (by simp [t2Expires_iff, hf])]
  · rw [hirq, t2Fire_expires ((t2Expires_iff _).mpr ⟨hc, hf⟩)]
    exact claim_updateVia_irq ((s.via i).ier.getLsbD 5) (s.via i).t2c i Via.t2Expire s

/-! ### Counting (R457, R463, R470) -/

/-- R463: what a program reads of a counter, `k` pairs of cycles after a load. -/
theorem view_loaded (l : Address) {k : Nat} (h : k ≤ l.toNat) :
    view (2 * (l.toNat : Int) + 1 - 2 * k) = BitVec.ofNat 16 (l.toNat - k) := by
  have hhalf : (2 * (l.toNat : Int) + 1 - 2 * k) / 2 = ((l.toNat - k : Nat) : Int) := by omega
  rw [view, hhalf]
  exact BitVec.ofInt_natCast _ _

/-- R470: one unit for each cycle, from T1 and from a T2 that does not count pulses. -/
theorem count_eq (n : Nat) (v : Via) :
    v.count n = { v with t1c := v.t1c - n, t2c := if v.acr.getLsbD 5 then v.t2c else v.t2c - n } := by
  simp only [Via.count, timerUnitsPerCycle, mul_one, Via.pulseCounting]

/-- Settles O53: an advance whose two polls do nothing, and the view of a counter. -/
theorem timersCountCycles : Obligations.TimersCountCycles := by
  unfold Obligations.TimersCountCycles
  refine ⟨fun i n s h1 h2 => ?_, fun l k h => view_loaded l h⟩
  rw [timerAdvance, count_eq, t1Poll_waits (.inl (by rw [setVia_via]; exact h1)),
    t2Poll_waits (by rw [setVia_via]; exact h2)]

/-! ### One-shot mode (R476, R524) -/

/-- What T1 is in one-shot mode: its mode, its counter, and whether its fired flag and its interrupt flag are set. -/
structure OneShot (c : Int) (fired flag : Bool) (v : Via) : Prop where
  mode  : v.freeRun = false
  count : v.t1c = c
  fired : v.t1Fired = fired
  flag  : v.ifr.getLsbD 6 = flag

/-- R476: in one-shot mode a poll sets both flags once the counter has passed -2, unless T1 has fired; it never
reloads. -/
theorem t1Poll_oneShot {i : TimerId} {s : State} {c : Int} {fired flag : Bool} (h : OneShot c fired flag (s.via i)) :
    OneShot c (fired || decide (c < -2)) (flag || !fired && decide (c < -2)) ((t1Poll i s).via i) := by
  obtain ⟨hmode, hcount, hfired, hflag⟩ := h
  by_cases hw : -2 ≤ c ∨ fired = true
  · have hsame : t1Poll i s = s := t1Poll_waits (by rw [hcount, hfired, hmode]; simpa using hw)
    rw [hsame]
    obtain hc | rfl := hw
    · have hn : decide (c < -2) = false := decide_eq_false (by omega)
      exact ⟨hmode, hcount, by rw [hn, hfired, Bool.or_false], by rw [hn, hflag, Bool.and_false, Bool.or_false]⟩
    · exact ⟨hmode, hcount, hfired, by rw [hflag, Bool.not_true, Bool.false_and, Bool.or_false]⟩
  · obtain ⟨hc, hf⟩ := not_or.mp hw
    have hfalse : fired = false := Bool.eq_false_iff.mpr hf
    have hp : decide (c < -2) = true := decide_eq_true (by omega)
    have hexpires : (s.via i).t1Expires = true :=
      (t1Expires_iff _).mpr ⟨by omega, .inl (hfired.trans hfalse)⟩
    rw [t1Poll_via_expired hexpires]
    refine ⟨hmode, by simp [hmode, hcount], by simp [hmode, hp], ?_⟩
    simp [Via.t1Expire, t1Bit, hfalse, hp]

/-- R470: an advance in one-shot mode is the count and the poll of T1; that of T2 leaves T1 alone. -/
theorem timerAdvance_oneShot {i : TimerId} {s : State} {c : Int} {fired flag : Bool}
    (h : OneShot c fired flag (s.via i)) (n : Nat) :
    OneShot (c - n) (fired || decide (c - n < -2)) (flag || !fired && decide (c - n < -2))
      ((timerAdvance i n s).via i) := by
  have hcount : OneShot (c - n) fired flag ((s.setVia i ((s.via i).count n)).via i) := by
    rw [setVia_via, count_eq, ← h.count]
    exact ⟨h.mode, rfl, h.fired, h.flag⟩
  obtain ⟨hmode, hc, hfired, hflag⟩ := t1Poll_oneShot hcount
  obtain ⟨ec, efired, eflag, eacr⟩ := t2Poll_t1 i (t1Poll i (s.setVia i ((s.via i).count n)))
  exact ⟨by rw [← hmode, timerAdvance, Via.freeRun, eacr]; rfl, ec.trans hc, efired.trans hfired, eflag.trans hflag⟩

/-- What every advance keeps of a timer and of a count that goes down with it holds after a list of advances. -/
theorem advances_induction {i : TimerId} {P : Int → Via → Prop}
    (hstep : ∀ (s : State) (c : Int) (n : Nat), P c (s.via i) → P (c - n) ((timerAdvance i n s).via i)) (ns : List Nat)
    {s : State} {c : Int} (h : P c (s.via i)) :
    P (c - (ns.sum : Nat)) ((ns.foldl (fun u n => timerAdvance i n u) s).via i) := by
  induction ns generalizing s c with
  | nil => simpa using h
  | cons n rest ih =>
    have hsum : c - ((n :: rest).sum : Nat) = c - n - (rest.sum : Nat) := by
      rw [List.sum_cons]
      omega
    rw [hsum]
    exact ih (hstep s c n h)

/-- R524: T1 in one-shot mode since its load: both flags are set once the counter has passed -2. -/
def SinceLoad (c : Int) (v : Via) : Prop := OneShot c (decide (c < -2)) (decide (c < -2)) v

theorem timerAdvance_sinceLoad {i : TimerId} (s : State) (c : Int) (n : Nat) (h : SinceLoad c (s.via i)) :
    SinceLoad (c - n) ((timerAdvance i n s).via i) := by
  have hstep := timerAdvance_oneShot h n
  by_cases hc : c < -2
  · have hn : c - n < -2 := by omega
    simpa [SinceLoad, hc, hn] using hstep
  · simpa [SinceLoad, hc] using hstep

/-- R476: an advance of a T1 that has fired leaves its flag as it is. -/
theorem timerAdvance_fired {i : TimerId} (flag : Bool) (s : State) (c : Int) (n : Nat)
    (h : OneShot c true flag (s.via i)) : OneShot (c - n) true flag ((timerAdvance i n s).via i) := by
  simpa using timerAdvance_oneShot h n

/-- Settles O60: what holds of T1 since its load, and of a T1 that has fired, over a list of advances. -/
theorem oneShotTimerFiresOnce : Obligations.OneShotTimerFiresOnce := by
  unfold Obligations.OneShotTimerFiresOnce
  refine fun i s ns hmode => ⟨fun l hc hf hflag => ?_, fun hf => ?_⟩
  · have hload : SinceLoad (2 * (l.toNat : Int) + 1) (s.via i) := by
      have hn : decide (2 * (l.toNat : Int) + 1 < -2) = false := decide_eq_false (by omega)
      rw [SinceLoad, hn]
      exact ⟨hmode, hc, hf, hflag⟩
    have h := advances_induction timerAdvance_sinceLoad ns hload
    have hfires : decide (2 * (l.toNat : Int) + 1 - (ns.sum : Nat) < -2) = decide (2 * l.toNat + 4 ≤ ns.sum) :=
      decide_eq_decide.mpr (by omega)
    exact ⟨h.flag.trans hfires, h.fired.trans hfires, h.count⟩
  · have h := advances_induction (P := fun c => OneShot c true ((s.via i).ifr.getLsbD 6)) (timerAdvance_fired _) ns
      ⟨hmode, rfl, hf, rfl⟩
    exact ⟨h.flag, h.fired⟩

end Sys2Proof.Machine

/-! The statements about 70_reset_and_hazards.md: what reset leaves from every state, and the block at power-up. -/

namespace Sys2Proof.Machine

/-- R493, R499: no timer has a flag pending after reset, so both lines are free. -/
theorem resetLines_eq (s : State) : resetLines s =
    { resetFields s with
      irq := { (resetFields s).irq with
        status := withBits (lineMask .t1) false (withBits (lineMask .t0) false s.irq.status) } } := by
  have htop : viaAfterReset.top = false := by decide
  simp only [resetLines, lineUpdate, State.via, resetFields, htop]

/-- R499: the block from which the vector is read: the lines of the timers are free, and the other bits of `IntStatus`
are as before. -/
theorem resetLines_status (s : State) :
    (resetLines s).irq.status.getLsbD 0 = false ∧ (resetLines s).irq.status.getLsbD 1 = false ∧
    ∀ k : Nat, 2 ≤ k → (resetLines s).irq.status.getLsbD k = s.irq.status.getLsbD k := by
  have h : (resetLines s).irq.status = withBits (lineMask .t1) false (withBits (lineMask .t0) false s.irq.status) := by
    rw [resetLines_eq]
  obtain ⟨h00, h01, -, h10, h11, -⟩ := line_mask_bits
  rw [h]
  refine ⟨?_, ?_, fun k hk => ?_⟩
  · rw [withBits_getLsbD _ _ _ (by decide), withBits_getLsbD _ _ _ (by decide), h10, h00]
    rfl
  · rw [withBits_getLsbD _ _ _ (by decide), h11]
    rfl
  · rw [line_high _ _ _ _ hk, line_high _ _ _ _ hk]

/-- R511: reset answers, and its two vector reads do no more than bus reads do. -/
theorem resetPort_answers (s : State) : ∃ pc t, resetPort s = .next (t.setPc pc) ∧ ReadKeeps (resetLines s) t := by
  obtain ⟨l, hl⟩ := busRead_answers (supported_resetLines s) resetVector
  obtain ⟨h, hh⟩ := busRead_answers ((supported_resetLines s).quiet (quiet_busRead _ _ l hl)) (resetVector + 1)
  refine ⟨pair h.1 l.1, h.2, ?_, (readKeeps_busRead hl).trans (readKeeps_busRead hh)⟩
  rw [resetPort, hl, andThen_next, hh, andThen_next]

/-- R511: a vector in plain memory is read low byte first, and the environment is told of the two reads. -/
theorem resetPort_plain {s : State} (hl : route s.platform 0xFFFC = .memory) (hh : route s.platform 0xFFFD = .memory) :
    resetPort s = .next ((((resetLines s).record (.read 0xFFFC)).record (.read 0xFFFD)).setPc
      (pair (readByte s.mem 0xFFFD) (readByte s.mem 0xFFFC))) := by
  have h1 : busRead resetVector (resetLines s) = _ := busRead_memory hl
  have h2 : busRead (resetVector + 1) ((resetLines s).record (.read resetVector)) = _ := busRead_memory hh
  rw [resetPort, h1, andThen_next, h2, andThen_next]
  rfl

/-- Settles O56: what reset reinitialises before its vector reads, and what they keep of it. -/
theorem resetReinitialisesTheBlock : Obligations.ResetReinitialisesTheBlock := by
  unfold Obligations.ResetReinitialisesTheBlock
  intro s
  obtain ⟨pc, t, ht, hk⟩ := resetPort_answers s
  obtain ⟨h0, h1, hhigh⟩ := resetLines_status s
  obtain ⟨-, -, l0, l1⟩ := hk.low ⟨rfl, rfl, h0, h1⟩
  refine ⟨_, ht, hk.fault, ?_, hk.sched, hk.cd, hk.due, hk.js, hk.jc, l0, l1,
    fun k h => (hk.high k h).trans (hhigh k h), hk.mem, hk.platform, hk.clear0 rfl, hk.clear1 rfl,
    fun l h hl hh => ?_⟩
  · rw [setPc_regs, hk.regs]
    rfl
  · have hp := resetPort_plain hl.1 hh.1
    rw [ht] at hp
    rw [Host.Outcome.next.inj hp, ← hl.2, ← hh.2]
    exact ⟨rfl, rfl⟩

/-- Settles O57: reset with its vector in plain memory, field by field, from a block of which only its memory, its
platform and its environment stay. -/
theorem resetStateIsResetAtPowerUp : Obligations.ResetStateIsResetAtPowerUp := by
  unfold Obligations.ResetStateIsResetAtPowerUp
  refine ⟨fun image s hstatus hmem hplat hext => ?_, fun image => ⟨rfl, rfl, rfl, rfl⟩, rfl, rfl, rfl⟩
  have hclear : withBits (lineMask .t1) false (withBits (lineMask .t0) false 0) = 0 := by decide
  rw [resetPort_plain (by rw [hplat]; decide) (by rw [hplat]; decide), resetLines_eq, hstatus, hclear, hmem]
  simp only [State.record, State.setPc, resetFields, hmem, hplat, hext]
  rfl

/-- R510, R499: what the invariant asks of the launch state besides the image is true of its fields as they stand. -/
theorem launch_inv {image : List Host.Cell} (h : Memory.wf image = true) : Inv (State.launch image) := by
  have hlines : (0 : Byte).getLsbD 0 = viaAfterReset.top ∧ (0 : Byte).getLsbD 1 = viaAfterReset.top ∧
      (0 : Byte).getLsbD 7 = false := by decide
  obtain ⟨hline0, hline1, hnmi⟩ := hlines
  exact ⟨h, hline0, hline1, hnmi, nofun, rfl, rfl⟩

/-- Settles O36: the launch state of every canonical image, the one that lists nothing among them. -/
theorem resetMeetsTheInvariant : Obligations.ResetMeetsTheInvariant := by
  unfold Obligations.ResetMeetsTheInvariant
  exact ⟨fun image => launch_inv, launch_inv rfl⟩

end Sys2Proof.Machine
